-- ==== Sys2Proof/Word.lean ====
section
/-! DEFINITION. The words and records that travel on the core's channels: the command word, the response word and their
abstract forms (spec/30_encoding.md rules R70, R72, R78; spec/00_scope.md rule R12).
A symbol identifier, that is a keycode, is a number of SYM_W bits, and a rotation offset one of ROT_W bits. Both widths are
parameters (R6), so they are conditions (`Cmd.fits`, `Instr.wf`, `Rsp.legal`, `StateInv`) and not types. -/

namespace Sys2Proof

/-- The command word `cmd[33:0]` (R72). -/
abbrev CmdWord := BitVec 34

/-- The response word `rsp[16:0]` (R78). -/
abbrev RspWord := BitVec 17

/-- The contents of the register SEED, and the value of a seed load (R21, R73). -/
abbrev SeedWord := BitVec 32

/-- One byte of a packed word (R53). -/
abbrev Byte := BitVec 8

/-- A letter index, 0 to 25 (R12, R151: "A model states `rotn` on the type of indices below 26"). -/
abbrev Letter := Fin 26

/-- The two edges of a key (R72: 1 = Press, 0 = Release). -/
inductive Action where
  | press
  | release
  deriving DecidableEq, Repr

/-- A key event as the host sees it: "the same KeyEvent shape (symbol, action)" (R78). -/
structure KeyEvent where
  symbol : Nat
  action : Action
  deriving DecidableEq, Repr

/-- The four classes of a key event (R75). -/
inductive KeyClass where
  | toggle
  | reseed
  | alpha
  | other
  deriving DecidableEq, Repr

/-- The ten command classes (R70), in the order of R70's table. -/
inductive CommandClass where
  | seed
  | next
  | toggleP
  | toggleR
  | alphaP
  | alphaR
  | reseedP
  | reseedR
  | otherP
  | otherR
  deriving DecidableEq, Repr

/-- The abstract syntax of a command, before a key event is classified (R70). -/
inductive Cmd where
  | seed (value : SeedWord)
  | next
  | key (symbol : Nat) (action : Action) (rest : Bool)
  deriving DecidableEq, Repr

/-- The abstract syntax of a response (R78): what is forwarded to the host, whether the original was consumed, and the
value drawn, if `next()` ran. -/
structure Rsp where
  consumed : Bool
  fwd      : Option KeyEvent
  draw     : Option Nat
  deriving DecidableEq, Repr

/-- What the environment presents at the command channel: a word of the port `cmd` (R71, R72), or a command of R70's
abstract syntax, which "is what the semantics use" (92_eei_decisions.md D3) and which alone can carry a keycode beyond the
eight bits the word's `symbol` field has (DESIGN CHOICE, log entry 4, safe). -/
inductive Presented where
  | word (word : CmdWord)
  | command (command : Cmd)
  deriving DecidableEq, Repr

end Sys2Proof
end

