-- ==== Sys2Proof/Config.lean ====
section
/-! DEFINITION. The parameters of the core (spec/00_scope.md rule R6) and when they are well-formed (R7). The constants of
R6 and the reference values stand in Machine/Parameters.lean. -/

namespace Sys2Proof

/-- The parameters a model takes as a configuration (R6). -/
structure Config where
  /-- SYM_W, the width in bits of a symbol identifier. -/
  symW : Nat
  /-- ROT_W, the width in bits of the rotation register. -/
  rotW : Nat
  /-- KC_A, the keycode of the letter A. -/
  kcA : Nat
  /-- KC_TOGGLE, the compiled-in toggle keycode. -/
  kcToggle : Nat
  /-- KC_RESEED, the compiled-in reseed keycode. -/
  kcReseed : Nat
  /-- ROT_RESET, the OPEN reset value of ROT (R32; log entry 2). -/
  rotReset : Nat
  /-- REST_RESET, the reset value of REST (R34). -/
  restReset : Bool
  /-- RESEED_ON_RELEASE: whether the release edge of the reseed key draws (R127). -/
  reseedOnRelease : Bool
  deriving DecidableEq, Repr

/-- R7, condition by condition, as a check. -/
def Config.wf (c : Config) : Bool :=
  decide (c.kcA + 25 < 2 ^ c.symW) &&
  decide (c.kcToggle < 2 ^ c.symW) && decide (c.kcReseed < 2 ^ c.symW) &&
  decide (c.kcToggle ≠ c.kcReseed) &&
  !decide (c.kcA ≤ c.kcToggle ∧ c.kcToggle ≤ c.kcA + 25) &&
  !decide (c.kcA ≤ c.kcReseed ∧ c.kcReseed ≤ c.kcA + 25) &&
  decide (c.rotReset ≤ 25) &&
  decide (c.rotW ≥ 5)

/-- "A configuration is well-formed when all of the following hold; a model refuses any other configuration" (R7). -/
abbrev Config.WF (c : Config) : Prop := c.wf = true

end Sys2Proof
end

