-- ==== Sys2Proof/Machine/Parameters.lean ====
section
/-! DEFINITION. The constants of the core and the reference configuration (spec/00_scope.md rule R6). They are "unaudited"
literals of the source (spec/93_implementation_defined.md U7), named here once so that an audit changes one place. -/

namespace Sys2Proof.Machine

/-- LCG_A, the multiplier of the generator (R6, R100). -/
abbrev lcgA : Nat := 1103515245

/-- LCG_C, the increment of the generator (R6, R100). -/
abbrev lcgC : Nat := 12345

/-- OUT_DIV, the divisor applied to the new seed (R6, R101). -/
abbrev outDiv : Nat := 65536

/-- OUT_MOD, the modulus of the reduction (R6, R101). -/
abbrev outMod : Nat := 25

/-- OUT_OFF, the offset added after the reduction (R6, R101). -/
abbrev outOff : Nat := 1

/-- ALPHA_N, the number of letters (R6, R150). -/
abbrev alphaN : Nat := 26

/-- BASE_SHIFT, the fixed ROT13 part of the shift (R6, R150). -/
abbrev baseShift : Nat := 13

/-- SEED_RESET (R6, R31). -/
abbrev seedReset : Nat := 1234

/-- EN_RESET (R6, R33). -/
abbrev enReset : Bool := false

/-- The reference configuration of R6 (log entry 3). R6 gives ROT_RESET no value: "OPEN"; the 0 here is
DESIGN CHOICE, log entry 2 (unsafe), and claims quantify over every well-formed configuration instead. -/
def referenceConfig : Config where
  symW := 8
  rotW := 5
  kcA := 0x41
  kcToggle := 0x80
  kcReseed := 0x08
  rotReset := 0
  restReset := true
  reseedOnRelease := true

end Sys2Proof.Machine
end

