-- ==== Sys2Proof/Syntax.lean ====
section
/-! DEFINITION. The instructions: one constructor for each of the ten command classes (spec/30_encoding.md rule R70;
spec/opcode_table.json). -/

namespace Sys2Proof

/-- A decoded command. A KEY command has been classified (R75), so the toggle and reseed keys carry no symbol, and a letter
is carried as its index (R77; log entry 9). `rest` is the observer's verdict (R24, R72). -/
inductive Instr where
  | seed (value : SeedWord)
  | next
  | togglePress (rest : Bool)
  | toggleRelease (rest : Bool)
  | alphaPress (letter : Letter) (rest : Bool)
  | alphaRelease (letter : Letter) (rest : Bool)
  | reseedPress (rest : Bool)
  | reseedRelease (rest : Bool)
  | otherPress (symbol : Nat) (rest : Bool)
  | otherRelease (symbol : Nat) (rest : Bool)
  deriving DecidableEq, Repr

end Sys2Proof
end

