-- ==== Sys2Proof/Machine/Operands.lean ====
section
/-! DEFINITION. What a command's operands mean: the classification of a key event, the conversions between a letter's
keycode and its index, the seed operand, and the field bits of an action (spec/30_encoding.md rules R72, R75 to R77, R80).
Keycode numbers are looked at nowhere else (R76). -/

namespace Sys2Proof.Machine

/-- The class of a key event, "a function of its symbol and the configuration alone" (R75). -/
def classify (c : Config) (symbol : Nat) : KeyClass :=
  if symbol = c.kcToggle then .toggle
  else if symbol = c.kcReseed then .reseed
  else if c.kcA ≤ symbol ∧ symbol ≤ c.kcA + 25 then .alpha
  else .other

/-- What a symbol classified ALPHA satisfies; it makes `indexOf` land below 26 (R77). -/
theorem alpha_bounds {c : Config} {symbol : Nat} (h : classify c symbol = .alpha) :
    c.kcA ≤ symbol ∧ symbol ≤ c.kcA + 25 := by
  unfold classify at h
  split at h
  · exact absurd h (by decide)
  · split at h
    · exact absurd h (by decide)
    · split at h
      · assumption
      · exact absurd h (by decide)

/-- `index_of(symbol) = symbol - KC_A`, "defined only when classify(symbol) = ALPHA; result in 0..25" (R77). The
precondition is an argument, so the question of a non-letter cannot be asked (R151, R171). -/
def indexOf (c : Config) (symbol : Nat) (h : classify c symbol = .alpha) : Letter :=
  ⟨symbol - c.kcA, by have := alpha_bounds h; omega⟩

/-- `symbol_of(index) = trunc_8(KC_A + index)` (R77), the truncation being to the SYM_W bits of a symbol. -/
def symbolOf (c : Config) (index : Letter) : Nat := (c.kcA + index.val) % 2 ^ c.symW

/-- The value a seed load takes from an integer of any size or sign: `v mod 2^32` with a non-negative result (R80). -/
def seedOperand (v : Int) : SeedWord := BitVec.ofInt 32 v

/-- The action bit: 1 = Press, 0 = Release (R72). -/
def actionBit : Action → Bool
  | .press => true
  | .release => false

/-- The action an action bit stands for (R72). -/
def actionOfBit (b : Bool) : Action := if b then .press else .release

end Sys2Proof.Machine
end

