-- ==== Sys2Proof/WellFormed.lean ====
section
/-! DEFINITION. When an instruction is one a decoder can answer: the operand of an OTHER command is a symbol of SYM_W bits
(spec/30_encoding.md rule R70) and of class OTHER (R75). Every other operand is legal at every value (R79: "Every
non-reserved word is legal"). -/

namespace Sys2Proof

/-- Well-formed under a configuration. A letter needs no check: its index is below 26 by type. -/
def Instr.wf (c : Config) : Instr → Bool
  | .seed _ => true
  | .next => true
  | .togglePress _ => true
  | .toggleRelease _ => true
  | .alphaPress _ _ => true
  | .alphaRelease _ _ => true
  | .reseedPress _ => true
  | .reseedRelease _ => true
  | .otherPress symbol _ => decide (symbol < 2 ^ c.symW) && Machine.classify c symbol == .other
  | .otherRelease symbol _ => decide (symbol < 2 ^ c.symW) && Machine.classify c symbol == .other

end Sys2Proof
end

