-- ==== Sys2Proof/Decode.lean ====
section
/-! DEFINITION. From a command word to an instruction and back (spec/30_encoding.md rules R70 to R75, R79, R83, R86), the
opcode map as data (R83; spec/opcode_table.json), the response word (R78) and the packing of both words into bytes
(spec/20_memory.md rule R53). -/

namespace Sys2Proof

/-! ### The fields of a command word (R72 to R74) -/

/-- `op`, bits [33:32]. -/
def CmdWord.op (w : CmdWord) : BitVec 2 := w.extractLsb' 32 2

/-- The payload, bits [31:0]: the value of a seed load (R73). -/
def CmdWord.payload (w : CmdWord) : SeedWord := w.extractLsb' 0 32

/-- The reserved bits [31:10] of a KEY command (R72). -/
def CmdWord.reservedBits (w : CmdWord) : BitVec 22 := w.extractLsb' 10 22

/-- `rest`, bit 9 (R72). -/
def CmdWord.restBit (w : CmdWord) : Bool := w.getLsbD 9

/-- `action`, bit 8 (R72). -/
def CmdWord.actionBit (w : CmdWord) : Bool := w.getLsbD 8

/-- `symbol`, bits [7:0] (R72). -/
def CmdWord.symbol (w : CmdWord) : BitVec 8 := w.extractLsb' 0 8

/-- The reserved encodings (R79): `op` = 0b11, KEY with a reserved bit set, NEXT with a non-zero payload. -/
def CmdWord.reserved (w : CmdWord) : Bool :=
  w.op == 0b11#2 || (w.op == 0b00#2 && w.reservedBits != 0#22) || (w.op == 0b10#2 && w.payload != 0#32)

/-- Whether a command's symbol is of SYM_W bits, as R70's abstract syntax has it. -/
def Cmd.fits (c : Config) : Cmd → Bool
  | .seed _ => true
  | .next => true
  | .key symbol _ _ => decide (symbol < 2 ^ c.symW)

/-! ### Decoding -/

/-- The command a word stands for, before classification; none for a reserved word (R72 to R74, R79). -/
def decodeCmd (w : CmdWord) : Option Cmd :=
  if w.op = 0b01#2 then some (.seed w.payload)
  else if w.op = 0b10#2 then
    if w.payload = 0#32 then some .next else none
  else if w.op = 0b00#2 then
    if w.reservedBits = 0#22 then some (.key w.symbol.toNat (Machine.actionOfBit w.actionBit) w.restBit) else none
  else none

/-- Steps 2 and 3 of R120: the instruction of a key event is fixed by its class (R75) and its action. -/
def dispatchKey (c : Config) (symbol : Nat) (action : Action) (rest : Bool) : Instr :=
  match h : Machine.classify c symbol, action with
  | .toggle, .press => .togglePress rest
  | .toggle, .release => .toggleRelease rest
  | .reseed, .press => .reseedPress rest
  | .reseed, .release => .reseedRelease rest
  | .alpha, .press => .alphaPress (Machine.indexOf c symbol h) rest
  | .alpha, .release => .alphaRelease (Machine.indexOf c symbol h) rest
  | .other, .press => .otherPress symbol rest
  | .other, .release => .otherRelease symbol rest

/-- The instruction of a command (R70). -/
def Cmd.toInstr (c : Config) : Cmd → Instr
  | .seed value => .seed value
  | .next => .next
  | .key symbol action rest => dispatchKey c symbol action rest

/-- The command an item on the channel is: a word's, or a command as it stands; none for a reserved word, and for a symbol
that is not of SYM_W bits, which with SYM_W >= 8 no word has (R70, R72; DESIGN CHOICE, log entry 4, safe). -/
def Presented.cmd (c : Config) (p : Presented) : Option Cmd :=
  (match p with
    | .word w => decodeCmd w
    | .command cmd => some cmd).filter (Cmd.fits c)

/-- The decoder of an item on the channel. -/
def Presented.decode (c : Config) (p : Presented) : Option Instr := (p.cmd c).map (Cmd.toInstr c)

/-- The decoder: total; with SYM_W >= 8 none exactly on the reserved words (R86). -/
def decode (c : Config) (w : CmdWord) : Option Instr := (Presented.word w).decode c

/-! ### Encoding -/

/-- The KEY word of a symbol of at most 8 bits, an action and a rest bit (R72). -/
def keyWord (symbol : Nat) (action : Action) (rest : Bool) : CmdWord :=
  BitVec.ofNat 34 (rest.toNat * 2 ^ 9 + (Machine.actionBit action).toNat * 2 ^ 8 + symbol)

/-- The word of a command (R72 to R74). -/
def encodeCmd : Cmd → CmdWord
  | .seed value => BitVec.ofNat 34 (1 * 2 ^ 32 + value.toNat)
  | .next => BitVec.ofNat 34 (2 * 2 ^ 32)
  | .key symbol action rest => keyWord symbol action rest

/-- The command an instruction came from (R70, R77). -/
def Instr.toCmd (c : Config) : Instr → Cmd
  | .seed value => .seed value
  | .next => .next
  | .togglePress rest => .key c.kcToggle .press rest
  | .toggleRelease rest => .key c.kcToggle .release rest
  | .alphaPress letter rest => .key (Machine.symbolOf c letter) .press rest
  | .alphaRelease letter rest => .key (Machine.symbolOf c letter) .release rest
  | .reseedPress rest => .key c.kcReseed .press rest
  | .reseedRelease rest => .key c.kcReseed .release rest
  | .otherPress symbol rest => .key symbol .press rest
  | .otherRelease symbol rest => .key symbol .release rest

/-- Whether a command has a word: its symbol fits the eight bits of R72's field. With SYM_W <= 8 every command of R70
has (log entry 4). -/
def Cmd.hasWord : Cmd → Bool
  | .seed _ => true
  | .next => true
  | .key symbol _ _ => decide (symbol < 2 ^ 8)

/-- The encoder: the one word of a well-formed instruction whose command has a word. -/
def encode (c : Config) (i : Instr) : CmdWord := encodeCmd (i.toCmd c)

/-- A command as the environment presents it: its word, where it has one. -/
def Cmd.present (cmd : Cmd) : Presented := if cmd.hasWord then .word (encodeCmd cmd) else .command cmd

/-! ### The ten classes and the opcode map -/

/-- The class of an instruction (R70). -/
def Instr.commandClass : Instr → CommandClass
  | .seed _ => .seed
  | .next => .next
  | .togglePress _ => .toggleP
  | .toggleRelease _ => .toggleR
  | .alphaPress _ _ => .alphaP
  | .alphaRelease _ _ => .alphaR
  | .reseedPress _ => .reseedP
  | .reseedRelease _ => .reseedR
  | .otherPress _ _ => .otherP
  | .otherRelease _ _ => .otherR

/-- The mnemonics of R70. -/
def CommandClass.mnemonic : CommandClass → String
  | .seed => "SEED"
  | .next => "NEXT"
  | .toggleP => "TOGGLE.P"
  | .toggleR => "TOGGLE.R"
  | .alphaP => "ALPHA.P"
  | .alphaR => "ALPHA.R"
  | .reseedP => "RESEED.P"
  | .reseedR => "RESEED.R"
  | .otherP => "OTHER.P"
  | .otherR => "OTHER.R"

/-- The further condition of a row of the opcode map (R83's last column). `keycode` is the condition of a designated key's
row, empty in R83 ("none") because the reference keycodes fit the word's symbol field. -/
inductive RowCondition where
  | always
  | keycode (k : Nat)
  | letter
  | other
  deriving DecidableEq, Repr

/-- A row of the opcode map (R83): a word `w` matches when `w & mask = pattern` and the condition holds. -/
structure OpcodeRow where
  cls       : CommandClass
  mask      : CmdWord
  pattern   : CmdWord
  condition : RowCondition
  deriving DecidableEq, Repr

/-- Whether the further condition of a row holds of a word (R83). -/
def RowCondition.holds (c : Config) (w : CmdWord) : RowCondition → Bool
  | .always => true
  | .keycode k => decide (k < 2 ^ 8)
  | .letter => decide (c.kcA ≤ w.symbol.toNat ∧ w.symbol.toNat ≤ c.kcA + 25)
  | .other => decide (w.symbol.toNat < 2 ^ c.symW ∧ w.symbol.toNat ≠ c.kcToggle ∧ w.symbol.toNat ≠ c.kcReseed ∧
      ¬ (c.kcA ≤ w.symbol.toNat ∧ w.symbol.toNat ≤ c.kcA + 25))

/-- Whether a word matches a row (R83). -/
def OpcodeRow.matches (c : Config) (row : OpcodeRow) (w : CmdWord) : Bool :=
  w &&& row.mask == row.pattern && row.condition.holds c w

/-- The opcode map (R83), with the keycodes of a configuration in the patterns. -/
def opcodeRows (c : Config) : List OpcodeRow :=
  [ ⟨.seed, 0x300000000#34, 0x100000000#34, .always⟩,
    ⟨.next, 0x3FFFFFFFF#34, 0x200000000#34, .always⟩,
    ⟨.toggleP, 0x3FFFFFDFF#34, BitVec.ofNat 34 (0x100 + c.kcToggle), .keycode c.kcToggle⟩,
    ⟨.toggleR, 0x3FFFFFDFF#34, BitVec.ofNat 34 c.kcToggle, .keycode c.kcToggle⟩,
    ⟨.reseedP, 0x3FFFFFDFF#34, BitVec.ofNat 34 (0x100 + c.kcReseed), .keycode c.kcReseed⟩,
    ⟨.reseedR, 0x3FFFFFDFF#34, BitVec.ofNat 34 c.kcReseed, .keycode c.kcReseed⟩,
    ⟨.alphaP, 0x3FFFFFD00#34, 0x000000100#34, .letter⟩,
    ⟨.alphaR, 0x3FFFFFD00#34, 0x000000000#34, .letter⟩,
    ⟨.otherP, 0x3FFFFFD00#34, 0x000000100#34, .other⟩,
    ⟨.otherR, 0x3FFFFFD00#34, 0x000000000#34, .other⟩ ]

/-- The class the opcode map gives a word: the first row it matches (R83). -/
def tableClass (c : Config) (w : CmdWord) : Option CommandClass :=
  ((opcodeRows c).find? fun row => row.matches c w).map (·.cls)

/-! ### The response word (R78) -/

/-- The five low-order fields of the forwarded event: `fwd_valid`, `fwd_action`, `fwd_symbol`; 0 when nothing is
forwarded. -/
def fwdField : Option KeyEvent → Nat
  | none => 0
  | some e => 2 ^ 9 + (Machine.actionBit e.action).toNat * 2 ^ 8 + e.symbol

/-- The two high-order fields of the draw: `draw_valid` and `draw`; 0 when `next()` did not run. -/
def drawField : Option Nat → Nat
  | none => 0
  | some d => 2 ^ 16 + d * 2 ^ 11

/-- Whether a response has a word: what it forwards fits the eight bits of `fwd_symbol`, and its draw the five of `draw`.
A draw always does (R104); with SYM_W <= 8 every response does (log entry 4). -/
def Rsp.hasWord (r : Rsp) : Bool :=
  (r.fwd.all fun e => decide (e.symbol < 2 ^ 8)) && r.draw.all fun d => decide (d < 2 ^ 5)

/-- The 17-bit word of a response, where it has one. -/
def Rsp.word (r : Rsp) : Option RspWord :=
  if r.hasWord then some (BitVec.ofNat 17 (drawField r.draw + r.consumed.toNat * 2 ^ 10 + fwdField r.fwd)) else none

/-- The response a word stands for: fields whose valid bit is 0 are not read. -/
def Rsp.ofWord (w : RspWord) : Rsp where
  consumed := w.getLsbD 10
  fwd := if w.getLsbD 9 then some ⟨(w.extractLsb' 0 8).toNat, Machine.actionOfBit (w.getLsbD 8)⟩ else none
  draw := if w.getLsbD 16 then some (w.extractLsb' 11 5).toNat else none

/-! ### Packing into bytes (R53: "puts bits [7:0] in the first byte, that is little-endian") -/

/-- `n` bytes of a number, least significant first. -/
def bytesOfNat : Nat → Nat → List Byte
  | 0, _ => []
  | n + 1, v => BitVec.ofNat 8 v :: bytesOfNat n (v / 256)

/-- The number a list of bytes stands for, least significant first. -/
def natOfBytes : List Byte → Nat
  | [] => 0
  | b :: bs => b.toNat + 256 * natOfBytes bs

/-- A command word in five bytes; the six bits above bit 33 are 0 (log entry 12). -/
def packCmd (w : CmdWord) : List Byte := bytesOfNat 5 w.toNat

/-- A command word from five bytes; another length, or a bit above bit 33, is refused (log entry 12). -/
def unpackCmd (bs : List Byte) : Option CmdWord :=
  if bs.length = 5 ∧ natOfBytes bs < 2 ^ 34 then some (BitVec.ofNat 34 (natOfBytes bs)) else none

/-- A response word in three bytes (log entry 12). -/
def packRsp (w : RspWord) : List Byte := bytesOfNat 3 w.toNat

/-- Decoding from bytes: total on any list of bytes. -/
def decodeBytes (c : Config) (bs : List Byte) : Option Instr := (unpackCmd bs).bind (decode c)

/-! ### The host's question -/

/-- The instruction the decoder reads from an instruction whose bits are `w`, numbered as spec/opcode_table.json numbers
them, under the reference configuration the table is written for. A command is one word of 34 bits and there is no longer
form (R82), so `nbits` is not needed; a number with a bit above bit 33 is no command word (log entry 12). -/
def decodeTableWord (_nbits w : Nat) : Option Instr :=
  if w < 2 ^ 34 then decode Machine.referenceConfig (BitVec.ofNat 34 w) else none

end Sys2Proof
end

