-- ==== Sys2Proof/Machine/State.lean ====
section
/-! DEFINITION. The state of the machine (spec/10_state.md rule R20, spec/30_encoding.md rule R71), the reasons a step can
stop, and the state after reset (spec/70_reset_and_hazards.md rule R191). -/

namespace Sys2Proof.Machine

/-- Why the machine stops with a fault. It never does: "The core raises no synchronous exception" (R170), "never a fault"
(R184), so there is no constructor and nothing raises one. -/
inductive Fault where
  deriving DecidableEq, Repr

/-- Why a step has no value. -/
inductive Refusal where
  /-- An instruction without a meaning. No arm of `exec` answers it: every instruction has its meaning. Safe. -/
  | notModelled (mnemonic : String)
  /-- A reserved command word was presented (R79, R184), or what is no command of the configuration at all: a symbol that
  is not of SYM_W bits (R70; DESIGN CHOICE, log entry 4). Raised by `step`. Safe: the spec leaves what hardware does with a
  reserved word unspecified and says that a model refuses it. -/
  | reservedWord (item : Presented)
  /-- The configuration is not well-formed (R7, R184). Raised by `step`. Safe: the spec says that a model refuses it. -/
  | illFormedConfiguration
  deriving DecidableEq, Repr

/-- The machine. `seed`, `rot`, `en` and `rest` are the whole architectural state of the core (R20); `rsp` is its response
port (R71); `config`, `cmds` and `rsps` are the model's own: the parameters of the step function (R28; log entry 1) and
the two ends of the environment's channel (log entry 5). -/
structure State where
  /-- The parameters (R6). No step writes them (R28, R60). -/
  config : Config
  /-- SEED[31:0] (R21). -/
  seed : SeedWord
  /-- ROT[ROT_W-1:0], also called `saved` and `rotation` (R22). -/
  rot : Nat
  /-- EN (R23): false is OFF, true is ON (R121). -/
  en : Bool
  /-- REST (R24). -/
  rest : Bool
  /-- `rsp_valid` and `rsp` (R71): the response to the last accepted command; none after reset (R191). -/
  rsp : Option Rsp
  /-- What the environment will still present, the next item first (R25, R56, R71). -/
  cmds : List Presented
  /-- The responses the environment has received, oldest first (R56 O-3, R194). -/
  rsps : List Rsp
  deriving DecidableEq, Repr

/-- The reset state under a configuration (R31 to R34, R191), with nothing presented and nothing received. -/
def State.resetOf (c : Config) : State where
  config := c
  seed := BitVec.ofNat 32 seedReset
  rot := c.rotReset
  en := enReset
  rest := c.restReset
  rsp := none
  cmds := []
  rsps := []

/-- The machine right after reset, under the reference configuration. Its ROT is DESIGN CHOICE 0 (log entry 2, unsafe):
R32 leaves ROT_RESET open, and claims quantify over `State.resetOf c`. -/
def State.reset : State := State.resetOf referenceConfig

end Sys2Proof.Machine
end

