-- ==== Sys2Proof/Machine/Flags.lean ====
section
/-! DEFINITION. The two flags (spec/10_state.md rule R29): EN, flipped by the press edge of the toggle key, and REST, copied
from the rest bit of every KEY command. There are no condition codes. -/

namespace Sys2Proof.Machine

/-- `REST <- cmd.rest`, the first act of every KEY command (R24, R120 step 1). -/
def State.latchRest (rest : Bool) (s : State) : State := { s with rest := rest }

/-- `EN <- 1 - EN` (R122). -/
def State.flipEn (s : State) : State := { s with en := !s.en }

end Sys2Proof.Machine
end

