-- ==== Sys2Proof/Machine/Transformer.lean ====
section
/-! DEFINITION. The ROT-N transformer (spec/42_rotn_transformer.md rules R150 to R157): combinational, no state, not a
command. -/

namespace Sys2Proof.Machine

/-- `rotn(index, rot) = (index + 13 + rot) mod 26`, on indices below 26 and every rotation (R150, R151). -/
def rotn (index : Letter) (rot : Nat) : Letter :=
  ⟨(index.val + baseShift + rot) % alphaN, Nat.mod_lt _ (by decide)⟩

/-- `k(rot) = (13 + rot) mod 26`, the effective shift (R153). -/
def effectiveShift (rot : Nat) : Nat := (baseShift + rot) % alphaN

/-- The inverse "for the reader who wants to check a host-side transcript; it is not implemented by the core and no command
computes it" (R157). No meaning calls it. -/
def unrotn (shifted : Letter) (rot : Nat) : Letter :=
  ⟨(shifted.val + alphaN - effectiveShift rot) % alphaN, Nat.mod_lt _ (by decide)⟩

end Sys2Proof.Machine
end

