-- ==== Sys2Proof/Machine/Ops.lean ====
section
/-! DEFINITION. The operations the meanings share: the generator and its draw (spec/40_prng.md rules R100 to R103), the
response (spec/00_scope.md rule R10, `respond`), the letter event and the reseed event
(spec/41_cipher_engine.md rules R124 to R127), and the operations of the environment on its channel.
There is no exception entry and no return from one: "There is no trap entry" (spec/60_exceptions.md rule R176), "There is no
trap return" (R177). There is no memory (spec/20_memory.md rule R50). -/

namespace Sys2Proof.Machine

/-! ### The PRNG -/

/-- `lcg_step(s) = trunc_32(s * 1103515245 + 12345)`: the sum is exact, its low 32 bits are kept (R100). The variable stands
last, where reduction by definition stops at it and does not count through the constants. -/
def lcgStep (s : SeedWord) : SeedWord := BitVec.ofNat 32 (lcgC + lcgA * s.toNat)

/-- `reduce(s) = ((s div 65536) mod 25) + 1` (R101). -/
def reduce (s : SeedWord) : Nat := s.toNat / outDiv % outMod + outOff

/-- `next()` (R103): SEED takes the advanced seed, ROT takes the reduction of the NEW seed, which is at most 25 and so is
only zero-extended to the register's ROT_W >= 5 bits. The value it returns is the value it wrote to ROT. -/
def State.draw (s : State) : State :=
  { s with seed := lcgStep s.seed, rot := reduce (lcgStep s.seed) }

/-- `SEED <- value` (R102). -/
def State.loadSeed (value : SeedWord) (s : State) : State := { s with seed := value }

/-! ### The response -/

/-- `respond(consumed, fwd, draw)` (R10, R78): the one response of a command, presented on the port and received by the
environment. -/
def State.respond (consumed : Bool) (fwd : Option KeyEvent) (draw : Option Nat) (s : State) : State :=
  { s with rsp := some ⟨consumed, fwd, draw⟩, rsps := s.rsps ++ [⟨consumed, fwd, draw⟩] }

/-! ### The key events of two edges -/

/-- What a letter does once REST is latched, on either edge (R124, R125): with EN = 0 it passes through unchanged, not
consumed; with EN = 1 it is consumed and `symbol_of(rotn(index, ROT))` is forwarded in its place. -/
def State.letterEvent (letter : Letter) (action : Action) (s : State) : State :=
  if s.en then s.respond true (some ⟨symbolOf s.config (rotn letter s.rot), action⟩) none
  else s.respond false (some ⟨symbolOf s.config letter, action⟩) none

/-- What the reseed key does once REST is latched (R126, R127): where this edge draws and REST = 1, `next()` runs; the
event is forwarded unchanged and not consumed either way. -/
def State.reseedEvent (edgeDraws : Bool) (action : Action) (s : State) : State :=
  if edgeDraws && s.rest then
    s.draw.respond false (some ⟨s.config.kcReseed, action⟩) (some s.draw.rot)
  else s.respond false (some ⟨s.config.kcReseed, action⟩) none

/-! ### The environment's end of the channel, and reset -/

/-- The environment presents one item before the others it has waiting. -/
def State.present (p : Presented) (s : State) : State := { s with cmds := p :: s.cmds }

/-- Taking the next item off the command channel (R71: accepted when `cmd_valid` and `cmd_ready` are both 1; between two
steps the core is always ready, so `cmd_valid` decides). None when nothing is presented. -/
def fetch (s : State) : Option (Presented × State) :=
  match s.cmds with
  | [] => none
  | p :: ps => some (p, { s with cmds := ps })

/-- A step with nothing presented: "Between commands the core is idle and holds its state" (R183; log entry 6). -/
def State.idle (s : State) : State := s

/-- `rst` asserted and released (R190): the four registers take their reset values and no response is presented. What is
not yet accepted is still the environment's, and so are the responses it has received. Not a step: "For a model, reset
is not a step: it is the choice of the initial state" (log entry 11). -/
def State.pulseReset (s : State) : State :=
  { State.resetOf s.config with cmds := s.cmds, rsps := s.rsps }

/-- The host-visible stream (R133): the forwarded events, in order. -/
def State.hostStream (s : State) : List KeyEvent := s.rsps.filterMap (·.fwd)

end Sys2Proof.Machine
end

