-- ==== Sys2Proof/Machine/CipherEngine.lean ====
section
/-! DEFINITION. The meanings of the KEY commands (spec/41_cipher_engine.md). Each latches REST first (R120 step 1). -/

namespace Sys2Proof.Machine

/-- TOGGLE.P (R122): flips EN; consumed, nothing forwarded. -/
def execTogglePress (rest : Bool) (s : State) : Host.Outcome State Fault Refusal :=
  .next ((s.latchRest rest).flipEn.respond true none none)

/-- TOGGLE.R (R123): EN unchanged; consumed, nothing forwarded. -/
def execToggleRelease (rest : Bool) (s : State) : Host.Outcome State Fault Refusal :=
  .next ((s.latchRest rest).respond true none none)

/-- ALPHA.P (R124). -/
def execAlphaPress (letter : Letter) (rest : Bool) (s : State) : Host.Outcome State Fault Refusal :=
  .next ((s.latchRest rest).letterEvent letter .press)

/-- ALPHA.R (R125): the same forward transform, from the released key's own letter and the current EN and ROT. -/
def execAlphaRelease (letter : Letter) (rest : Bool) (s : State) : Host.Outcome State Fault Refusal :=
  .next ((s.latchRest rest).letterEvent letter .release)

/-- RESEED.P (R126): draws if REST = 1, whatever EN is (R130). -/
def execReseedPress (rest : Bool) (s : State) : Host.Outcome State Fault Refusal :=
  .next ((s.latchRest rest).reseedEvent true .press)

/-- RESEED.R (R127): draws if RESEED_ON_RELEASE and REST = 1. -/
def execReseedRelease (rest : Bool) (s : State) : Host.Outcome State Fault Refusal :=
  .next ((s.latchRest rest).reseedEvent s.config.reseedOnRelease .release)

/-- OTHER.P (R128): forwarded bit for bit, whatever EN is. -/
def execOtherPress (symbol : Nat) (rest : Bool) (s : State) : Host.Outcome State Fault Refusal :=
  .next ((s.latchRest rest).respond false (some ⟨symbol, .press⟩) none)

/-- OTHER.R (R129). -/
def execOtherRelease (symbol : Nat) (rest : Bool) (s : State) : Host.Outcome State Fault Refusal :=
  .next ((s.latchRest rest).respond false (some ⟨symbol, .release⟩) none)

end Sys2Proof.Machine
end

