-- ==== Sys2Proof/Machine/Prng.lean ====
section
/-! DEFINITION. The meanings of the PRNG commands (spec/40_prng.md). -/

namespace Sys2Proof.Machine

/-- SEED (R102): loads SEED and draws nothing. -/
def execSeed (value : SeedWord) (s : State) : Host.Outcome State Fault Refusal :=
  .next ((s.loadSeed value).respond false none none)

/-- NEXT (R106): one draw, not gated by the rest condition; the response carries the value drawn. -/
def execNext (s : State) : Host.Outcome State Fault Refusal :=
  .next (s.draw.respond false none (some s.draw.rot))

end Sys2Proof.Machine
end

