-- ==== Sys2Proof/Machine/Dispatch.lean ====
section
/-! DEFINITION. One arm per instruction (spec/30_encoding.md rule R70). -/

namespace Sys2Proof.Machine

def exec (i : Instr) (s : State) : Host.Outcome State Fault Refusal :=
  match i with
  | .seed value => Sys2Proof.Machine.execSeed value s
  | .next => Sys2Proof.Machine.execNext s
  | .togglePress rest => Sys2Proof.Machine.execTogglePress rest s
  | .toggleRelease rest => Sys2Proof.Machine.execToggleRelease rest s
  | .alphaPress letter rest => Sys2Proof.Machine.execAlphaPress letter rest s
  | .alphaRelease letter rest => Sys2Proof.Machine.execAlphaRelease letter rest s
  | .reseedPress rest => Sys2Proof.Machine.execReseedPress rest s
  | .reseedRelease rest => Sys2Proof.Machine.execReseedRelease rest s
  | .otherPress symbol rest => Sys2Proof.Machine.execOtherPress symbol rest s
  | .otherRelease symbol rest => Sys2Proof.Machine.execOtherRelease symbol rest s

end Sys2Proof.Machine
end

