-- ==== Sys2Proof/Machine/Step.lean ====
section
/-! DEFINITION. One step: one whole command, accepted, executed and answered (spec/20_memory.md rule R54). -/

namespace Sys2Proof.Machine

/-- One step. Its refusals are exactly two (R184): an ill-formed configuration (R7) and a reserved word (R79). With nothing
presented the core idles (R183). -/
def step (s : State) : Host.Outcome State Fault Refusal :=
  if s.config.WF then
    match fetch s with
    | none => .next s.idle
    | some (p, s') =>
      match p.decode s.config with
      | none => .refused (.reservedWord p)
      | some i => exec i s'
  else .refused .illFormedConfiguration

/-- `s` with the word `w` presented next, before the words already waiting: the very next step accepts it. A command is one
34-bit word, so `nbits` is not needed (log entry 12). This is how a program comes to run: the environment presents it
(log entry 5). -/
def State.withFetchWord (s : State) (_nbits w : Nat) : State := s.present (.word (BitVec.ofNat 34 w))

end Sys2Proof.Machine
end

