-- ==== Sys2Proof/Machine/Ports.lean ====
section
/-! DEFINITION. The outputs of the core as its ports show them (spec/30_encoding.md rule R71, spec/10_state.md rule R36).
They are computed from the state and change nothing. -/

namespace Sys2Proof.Machine

/-- The output ports (R71). -/
structure OutputPorts where
  cmdReady : Bool
  rspValid : Bool
  /-- `rsp`: none where the spec gives the port no value, since `rsp_valid` is 0 (log entry 15) or the response has no
  word (log entry 4). -/
  rsp      : Option RspWord
  seedQ    : SeedWord
  /-- `rot_q`, of ROT_W bits. R36 and R71 write the five bits `rot_q[4:0]`, for ROT_W = 5; that the output is as wide as its
  register where ROT_W is more than 5 is DESIGN CHOICE, log entry 16 (safe). -/
  rotQ     : Nat
  enQ      : BitVec 1
  restQ    : BitVec 1
  deriving DecidableEq, Repr

/-- The outputs between two steps. The core is ready, since a step is a whole command (R54, R71; log entry 14), and each
status output equals its register (R36). While `rsp_valid` is 0 (after reset, before the first response, during `rst`) R71,
R190 and R191 say nothing of `rsp`: DESIGN CHOICE, log entry 15 (safe), the model shows no value then. -/
def State.ports (s : State) : OutputPorts where
  cmdReady := true
  rspValid := s.rsp.isSome
  rsp := s.rsp.bind Rsp.word
  seedQ := s.seed
  rotQ := s.rot
  enQ := BitVec.ofBool s.en
  restQ := BitVec.ofBool s.rest

/-- The outputs while `rst` is asserted (R190): "the four registers hold their reset values, `cmd_ready` is 0, `rsp_valid`
is 0". -/
def State.portsInReset (s : State) : OutputPorts := { s.pulseReset.ports with cmdReady := false }

end Sys2Proof.Machine
end

