-- ==== Sys2Proof/Machine/Script.lean ====
section
/-! DEFINITION. The line-oriented script syntax and its pseudo-commands (spec/30_encoding.md rules R84, R85; log entry 13): the abstract
lines, what each expands to, reading a line of text, and running the items of a script. -/

namespace Sys2Proof.Machine

/-- `sym` of R84's grammar. -/
inductive ScriptSym where
  | letter (letter : Letter)
  | toggle
  | reseed
  | raw (symbol : Nat)
  deriving DecidableEq, Repr

/-- `line` of R84's grammar: the commands, the pseudo-commands and the directive of R85, and a comment. -/
inductive ScriptLine where
  | seed (value : SeedWord)
  | next
  | press (sym : ScriptSym) (rest : Bool)
  | release (sym : ScriptSym) (rest : Bool)
  | tap (sym : ScriptSym)
  | type (letters : List Letter)
  | redraw
  | on
  | off
  | reset
  | comment
  deriving DecidableEq, Repr

/-- What a script does to the core: it presents a command, or asserts and releases `rst`. -/
inductive ScriptItem where
  | present (p : Presented)
  | reset
  deriving DecidableEq, Repr

/-- The keycode of a `sym` (R84). -/
def ScriptSym.keycode (c : Config) : ScriptSym → Nat
  | .letter index => symbolOf c index
  | .toggle => c.kcToggle
  | .reseed => c.kcReseed
  | .raw keycode => keycode

/-- One key event of a script. -/
def ScriptSym.event (c : Config) (action : Action) (rest : Bool) (sym : ScriptSym) : ScriptItem :=
  .present (Cmd.key (sym.keycode c) action rest).present

/-- `TAP sym` is `PRESS sym rest=1` then `RELEASE sym rest=1` (R85). -/
def ScriptSym.tapItems (c : Config) (sym : ScriptSym) : List ScriptItem :=
  [sym.event c .press true, sym.event c .release true]

/-- The expansion of a line (R84, R85). -/
def ScriptLine.expand (c : Config) : ScriptLine → List ScriptItem
  | .seed value => [.present (Cmd.seed value).present]
  | .next => [.present Cmd.next.present]
  | .press sym rest => [sym.event c .press rest]
  | .release sym rest => [sym.event c .release rest]
  | .tap sym => sym.tapItems c
  | .type letters => letters.flatMap fun index => (ScriptSym.letter index).tapItems c
  | .redraw => ScriptSym.reseed.tapItems c
  | .on => ScriptSym.toggle.tapItems c
  | .off => ScriptSym.toggle.tapItems c
  | .reset => [.reset]
  | .comment => []

/-- The items of a script. -/
def assemble (c : Config) (lines : List ScriptLine) : List ScriptItem := lines.flatMap (ScriptLine.expand c)

/-! ### Reading a line of text -/

/-- The words of a line, separated by spaces; `word` holds the letters of the current one, last first. -/
def wordsOf : List Char → List Char → List (List Char)
  | word, [] => if word.isEmpty then [] else [word.reverse]
  | word, ch :: chs =>
    if ch = ' ' then (if word.isEmpty then wordsOf [] chs else word.reverse :: wordsOf [] chs)
    else wordsOf (ch :: word) chs

/-- A digit of a base up to 16. -/
def digitOf (base : Nat) (ch : Char) : Option Nat :=
  let v := if '0' ≤ ch ∧ ch ≤ '9' then ch.toNat - '0'.toNat
    else if 'a' ≤ ch ∧ ch ≤ 'f' then ch.toNat - 'a'.toNat + 10
    else if 'A' ≤ ch ∧ ch ≤ 'F' then ch.toNat - 'A'.toNat + 10
    else base
  if v < base then some v else none

/-- The number a list of digits stands for, most significant first, after `acc`. -/
def digitsFrom (base acc : Nat) : List Char → Option Nat
  | [] => some acc
  | ch :: chs => (digitOf base ch).bind fun d => digitsFrom base (acc * base + d) chs

/-- A number with at least one digit. -/
def numberOf (base : Nat) (chs : List Char) : Option Nat :=
  if chs.isEmpty then none else digitsFrom base 0 chs

/-- `u32 ::= decimal | "0x" hex`; a number beyond 32 bits is no `u32`. -/
def parseU32 (chs : List Char) : Option SeedWord :=
  let n := match chs with
    | '0' :: 'x' :: hex => numberOf 16 hex
    | _ => numberOf 10 chs
  n.bind fun v => if v < 2 ^ 32 then some (BitVec.ofNat 32 v) else none

/-- A letter "A" .. "Z". -/
def parseLetter (ch : Char) : Option Letter :=
  if h : ch.toNat - 'A'.toNat < 26 then
    if 'A' ≤ ch then some ⟨ch.toNat - 'A'.toNat, h⟩ else none
  else none

/-- `sym` of R84. -/
def parseSym (chs : List Char) : Option ScriptSym :=
  if chs = "TOGGLE".toList then some .toggle
  else if chs = "RESEED".toList then some .reseed
  else match chs with
    | [ch] => (parseLetter ch).map .letter
    | ['#', hi, lo] => (numberOf 16 [hi, lo]).map .raw
    | _ => none

/-- `[ "rest=" bit ]`: "An omitted `rest=` is `rest=1`" (R84). -/
def parseRest : List (List Char) → Option Bool
  | [] => some true
  | [chs] =>
    if chs = "rest=0".toList then some false
    else if chs = "rest=1".toList then some true
    else none
  | _ => none

/-- The letters between the quotation marks of TYPE (R85); character 34 is the quotation mark. -/
def parseTyped (chs : List Char) : Option (List Letter) :=
  match chs with
  | q :: rest =>
    if q = Char.ofNat 34 ∧ rest.getLast? = some (Char.ofNat 34) then rest.dropLast.mapM parseLetter else none
  | [] => none

/-- A line from its words. -/
def parseWords : List (List Char) → Option ScriptLine
  | [] => none
  | head :: args =>
    if head.head? = some ';' then some .comment
    else if head = "SEED".toList then
      match args with
      | [v] => (parseU32 v).map .seed
      | _ => none
    else if head = "PRESS".toList then
      match args with
      | sym :: more => (parseSym sym).bind fun k => (parseRest more).map (.press k)
      | [] => none
    else if head = "RELEASE".toList then
      match args with
      | sym :: more => (parseSym sym).bind fun k => (parseRest more).map (.release k)
      | [] => none
    else if head = "TAP".toList then
      match args with
      | [sym] => (parseSym sym).map .tap
      | _ => none
    else if head = "TYPE".toList then
      match args with
      | [typed] => (parseTyped typed).map .type
      | _ => none
    else if args ≠ [] then none
    else if head = "NEXT".toList then some .next
    else if head = "REDRAW".toList then some .redraw
    else if head = "ON".toList then some .on
    else if head = "OFF".toList then some .off
    else if head = ".RESET".toList then some .reset
    else none

/-- A line of a script; none where the text is no line of the grammar (R84, R85). -/
def parseLine (text : String) : Option ScriptLine := parseWords (wordsOf [] text.toList)

/-! ### Running a script -/

/-- One item: a command is presented and the core takes one step; `.RESET` is a pulse of `rst`. -/
def runItem (item : ScriptItem) (s : State) : Host.Outcome State Fault Refusal :=
  match item with
  | .present p => step (s.present p)
  | .reset => .next s.pulseReset

/-- The items of a script in order, stopping at the first refusal. -/
def runItems : List ScriptItem → State → Host.Outcome State Fault Refusal
  | [], s => .next s
  | item :: items, s =>
    match runItem item s with
    | .next s' => runItems items s'
    | .fault r => .fault r
    | .refused r => .refused r

end Sys2Proof.Machine
end

