-- ==== Sys2Proof/Safety.lean ====
section
/-! DEFINITION. What counts as a safe run, in the terms the claims use: legal responses and the invariant of every step
(spec/10_state.md rule R38, spec/30_encoding.md rule R81), and the duties of the environment that the claims about press
and release take as premises (spec/41_cipher_engine.md rule R131, spec/70_reset_and_hazards.md rules R195 to R198). -/

namespace Sys2Proof

open Sys2Proof.Machine

/-- `k` steps of the machine behind the host's interface. -/
abbrev run (k : Nat) (s : State) : Host.Outcome State Fault Refusal := Host.Core.run Sys2Proof.core k s

/-! ### Responses and the invariant -/

/-- A response the core may give (R78, R81): a draw is in 1 to 25 (R104); what is forwarded is a symbol of SYM_W bits (R70,
R78: "the same KeyEvent shape"); the toggle key is never forwarded (R133); a
consumed command draws nothing, and what it forwards, if anything, is a letter. -/
def Rsp.legal (c : Config) (r : Rsp) : Bool :=
  (r.draw.all fun d => decide (1 ≤ d ∧ d ≤ 25)) &&
  (r.fwd.all fun e => decide (e.symbol < 2 ^ c.symW) && classify c e.symbol != .toggle) &&
  (!r.consumed || (r.draw.isNone && r.fwd.all fun e => classify c e.symbol == .alpha))

/-- The invariant every step keeps: the configuration is well-formed (R7), ROT is at most 25 (R38 I-a) and
of ROT_W bits (R22), every response given is legal, and the response on the port is the last one given (R56 O-3). R38 I-c:
SEED, EN and REST range over all their patterns, so nothing is said of them. -/
abbrev StateInv (s : State) : Prop :=
  s.config.WF ∧ s.rot ≤ 25 ∧ s.rot < 2 ^ s.config.rotW ∧ (∀ r ∈ s.rsps, r.legal s.config = true) ∧
    (s.rsp = none ∨ s.rsps.getLast? = s.rsp)

/-- A state some run reaches from reset under some well-formed configuration and some stream of words and
commands (R192, R194). -/
def Reachable (s : State) : Prop :=
  ∃ (c : Config) (ps : List Presented) (k : Nat), c.WF ∧ run k { State.resetOf c with cmds := ps } = .next s

/-- A safe run answers every command: no refusal and no fault in `k` steps. -/
def SafeFor (k : Nat) (s : State) : Prop := ∃ s', run k s = .next s'

/-! ### The environment's duties -/

/-- Whether `next()` runs during an instruction (R103: "inside the NEXT command ... and inside the reseed key events"). -/
def Instr.draws (c : Config) : Instr → Bool
  | .seed _ => false
  | .next => true
  | .togglePress _ => false
  | .toggleRelease _ => false
  | .alphaPress _ _ => false
  | .alphaRelease _ _ => false
  | .reseedPress rest => rest
  | .reseedRelease rest => c.reseedOnRelease && rest
  | .otherPress _ _ => false
  | .otherRelease _ _ => false

/-- An instruction that leaves EN and ROT alone: "no command ... is TOGGLE.P, NEXT, or a reseed key event that draws"
(R131). -/
def Instr.quiet (c : Config) (i : Instr) : Bool := !i.draws c && i.commandClass != .toggleP

/-- A legal item of the channel that decodes to a quiet instruction. -/
def Presented.quiet (c : Config) (p : Presented) : Bool := (p.decode c).any (Instr.quiet c)

/-- The keys down after a command, as an observer outside the core tracks them (R196; the core itself "keeps no memory of
keys", R134). -/
def heldAfter (held : List Nat) : Cmd → List Nat
  | .seed _ => held
  | .next => held
  | .key symbol .press _ => if symbol ∈ held then held else symbol :: held
  | .key symbol .release _ => held.filter (· != symbol)

/-- What a faithful observer presents with a command (R196): "`rest = 1` on a key event exactly when no key other than the
event's own key is down at that moment". -/
def truthfulCmd (held : List Nat) : Cmd → Bool
  | .seed _ => true
  | .next => true
  | .key symbol _ rest => rest == held.all (· == symbol)

/-- A stream of legal items whose rest bits a faithful observer gave, starting with the keys `held` down. -/
def truthful (c : Config) : List Nat → List Presented → Bool
  | _, [] => true
  | held, p :: ps =>
    match p.cmd c with
    | none => false
    | some cmd => truthfulCmd held cmd && truthful c (heldAfter held cmd) ps

/-- The commands that hazards H-TOGGLE and H-CMD keep out of a keystroke (R197, R198), and the release of the held key
itself: NEXT, a press of the toggle key, a release of `symbol`. -/
def disturbs (c : Config) (symbol : Nat) : Cmd → Bool
  | .seed _ => false
  | .next => true
  | .key x .press _ => classify c x == .toggle
  | .key x .release _ => x == symbol

/-- A stream of legal items none of which disturbs the keystroke of `symbol`. -/
def undisturbed (c : Config) (symbol : Nat) (ps : List Presented) : Bool :=
  ps.all fun p => (p.cmd c).any fun cmd => !disturbs c symbol cmd

end Sys2Proof
end

