-- ==== Sys2Proof/Certificates/Slice0/Obligations.lean ====
section
/-! DEFINITION. The statements for the provers. Each names the rule of spec/ it formalises, or says that it is derived. -/

namespace Sys2Proof.Claims

open Sys2Proof.Machine

/-- `t` once the core has given the response `r`: it is on the port and the environment has received it. -/
def answer (t : State) (r : Rsp) : State := { t with rsp := some r, rsps := t.rsps ++ [r] }

/-- The advanced seed as a number (R100). -/
def advanced (seed : SeedWord) : Nat := (12345 + 1103515245 * seed.toNat) % 2 ^ 32

/-- The value drawn from an advanced seed (R101). -/
def drawn (advancedSeed : Nat) : Nat := advancedSeed / 65536 % 25 + 1

/-- The state after a draw (R103): SEED and ROT are written, nothing else. -/
def afterDraw (s : State) : State :=
  { s with seed := BitVec.ofNat 32 (advanced s.seed), rot := drawn (advanced s.seed) }

/-- A letter index as a keycode (R77): the sum, in the SYM_W bits of a symbol. -/
def keycode (c : Config) (index : Nat) : Nat := (c.kcA + index) % 2 ^ c.symW

/-- What a letter event does (R124, R125), written out. -/
def letterOutcome (letter : Letter) (action : Action) (rest : Bool) (s : State) : State :=
  if s.en then answer { s with rest := rest } ⟨true, some ⟨keycode s.config ((letter.val + 13 + s.rot) % 26), action⟩, none⟩
  else answer { s with rest := rest } ⟨false, some ⟨keycode s.config letter.val, action⟩, none⟩

/-- What a reseed key event does (R126, R127), written out. -/
def reseedOutcome (draws : Bool) (action : Action) (rest : Bool) (s : State) : State :=
  if draws then
    answer (afterDraw { s with rest := rest })
      ⟨false, some ⟨s.config.kcReseed, action⟩, some (drawn (advanced s.seed))⟩
  else answer { s with rest := rest } ⟨false, some ⟨s.config.kcReseed, action⟩, none⟩

/-- The event a KEY command carries, in the command's own bits. -/
def originalEvent : Cmd → Option KeyEvent
  | .seed _ => none
  | .next => none
  | .key symbol action _ => some ⟨symbol, action⟩

/-- A row of the step table (R135): the registers after the command and its response, as numbers and bits. -/
structure TableRow where
  seed     : Nat
  rot      : Nat
  en       : Bool
  rest     : Bool
  consumed : Bool
  fwd      : Option (Nat × Bool)
  draw     : Option Nat
  deriving DecidableEq, Repr

/-- The row of a KEY command (R135), from its symbol, its action bit and its rest bit; none where the symbol is not of
SYM_W bits. -/
def keyRow (c : Config) (x : Nat) (press b : Bool) (s r : Nat) (e : Bool) : Option TableRow :=
  let s' := (12345 + 1103515245 * s) % 4294967296
  let d := s' / 65536 % 25 + 1
  if 2 ^ c.symW ≤ x then none
  else if x = c.kcToggle then
    if press then some ⟨s, r, !e, b, true, none, none⟩ else some ⟨s, r, e, b, true, none, none⟩
  else if x = c.kcReseed then
    if b && (press || c.reseedOnRelease) then some ⟨s', d, e, true, false, some (x, press), some d⟩
    else some ⟨s, r, e, b, false, some (x, press), none⟩
  else if c.kcA ≤ x ∧ x ≤ c.kcA + 25 then
    if e then some ⟨s, r, e, b, true, some (c.kcA + (x - c.kcA + 13 + r) % 26, press), none⟩
    else some ⟨s, r, e, b, false, some (x, press), none⟩
  else some ⟨s, r, e, b, false, some (x, press), none⟩

/-- The row of NEXT (R135). -/
def nextRow (s : Nat) (e t : Bool) : TableRow :=
  let s' := (12345 + 1103515245 * s) % 4294967296
  let d := s' / 65536 % 25 + 1
  ⟨s', d, e, t, false, none, some d⟩

/-- "The complete step function of the core, as one table" (R135), from what is presented and the four registers: a word is
read by its bits (R72 to R74), and a reserved one has no row (R79). It uses none of the model's own operations. -/
def stepTable (c : Config) (p : Presented) (s r : Nat) (e t : Bool) : Option TableRow :=
  match p with
  | .word word =>
    let w := word.toNat
    let v := w % 2 ^ 32
    if w / 2 ^ 32 = 1 then some ⟨v, r, e, t, false, none, none⟩
    else if w / 2 ^ 32 = 2 then (if v = 0 then some (nextRow s e t) else none)
    else if w / 2 ^ 32 = 0 then
      (if v / 1024 = 0 then keyRow c (w % 256) (decide (w / 256 % 2 = 1)) (decide (w / 512 % 2 = 1)) s r e else none)
    else none
  | .command (.seed v) => some ⟨v.toNat, r, e, t, false, none, none⟩
  | .command .next => some (nextRow s e t)
  | .command (.key x a b) => keyRow c x (decide (a = .press)) b s r e

/-- A response in the table's terms. -/
def rowOf (s : State) (r : Rsp) : TableRow where
  seed := s.seed.toNat
  rot := s.rot
  en := s.en
  rest := s.rest
  consumed := r.consumed
  fwd := r.fwd.map fun e => (e.symbol, decide (e.action = .press))
  draw := r.draw

/-- What is no command of a configuration: a reserved word (R79), or a symbol that is not of SYM_W bits (R70). -/
def noCommand (c : Config) : Presented → Prop
  | .word w => w.reserved = true ∨ (w.toNat / 2 ^ 32 = 0 ∧ 2 ^ c.symW ≤ w.toNat % 2 ^ 8)
  | .command (.seed _) => False
  | .command .next => False
  | .command (.key x _ _) => 2 ^ c.symW ≤ x

/-- A letter's key event as the environment presents it. -/
def letterCommand (c : Config) (letter : Letter) (a : Action) (b : Bool) : Presented :=
  (Cmd.key (symbolOf c letter) a b).present

/-- The two states show the same four registers. -/
def sameRegisters (s t : State) : Prop := s.seed = t.seed ∧ s.rot = t.rot ∧ s.en = t.en ∧ s.rest = t.rest

end Sys2Proof.Claims

open Sys2Proof Sys2Proof.Machine Sys2Proof.Claims

/-! ### Encoding and decoding -/

/-- Decode of encode of a well-formed instruction is that instruction, under every well-formed configuration, for every
instruction whose command has a word, which with SYM_W <= 8 is every instruction; and what the environment presents for an
instruction, with or without a word, decodes to it. Derived from 30_encoding.md sections 1, 3 to 5 and 8; that a keycode
beyond eight bits is presented as a command is the model's choice, log entry 4. -/
def Obligations.DecodeOfEncodeIsTheInstruction : Prop :=
  ∀ (c : Config) (i : Instr), c.WF → i.wf c = true →
    ((i.toCmd c).hasWord = true → decode c (encode c i) = some i) ∧
    (c.symW ≤ 8 → (i.toCmd c).hasWord = true) ∧
    (i.toCmd c).present.decode c = some i

/-- A word that decodes has exactly one meaning: its instruction is well-formed and encodes to that very word; and a command
presented as such that decodes is the command of its instruction. Derived from 30_encoding.md sections 1, 3 to 5 and 8; that
a command is presented as such, and that a symbol not of SYM_W bits is refused, are the model's choice, log entry 4. -/
def Obligations.DecodedWordIsTheEncoding : Prop :=
  ∀ (c : Config) (i : Instr), c.WF →
    (∀ w : CmdWord, decode c w = some i → i.wf c = true ∧ encode c i = w) ∧
    (∀ cmd : Cmd, (Presented.command cmd).decode c = some i → i.wf c = true ∧ i.toCmd c = cmd)

/-- R79: the reserved words are `op` = 3, KEY with a bit of [31:10] set and NEXT with a non-zero payload; the decoder
refuses these and no other word (with SYM_W = 8, as R72 has it, and with every wider symbol), and a step that would accept
one is refused by name. Every other word is legal: the step that accepts it has a next state; a KEY word of an OTHER symbol
is that OTHER command, whatever its action and rest bits. -/
def Obligations.ReservedWordsAreRefused : Prop :=
  ∀ c : Config, 8 ≤ c.symW →
    (∀ w : CmdWord,
      (decode c w = none ↔
        (w.toNat / 2 ^ 32 = 3 ∨ (w.toNat / 2 ^ 32 = 0 ∧ w.toNat / 2 ^ 10 % 2 ^ 22 ≠ 0) ∨
          (w.toNat / 2 ^ 32 = 2 ∧ w.toNat % 2 ^ 32 ≠ 0))) ∧
      ∀ (s : State) (ps : List Presented), s.config = c → c.WF → s.cmds = .word w :: ps →
        (step s = .refused (.reservedWord (.word w)) ↔ decode c w = none) ∧
        (decode c w ≠ none → ∃ s' : State, step s = .next s')) ∧
    ∀ (x : Nat) (b : Bool), x < 2 ^ 8 → classify c x = .other →
      decode c (BitVec.ofNat 34 (0x100 + x + 0x200 * b.toNat)) = some (.otherPress x b) ∧
      decode c (BitVec.ofNat 34 (x + 0x200 * b.toNat)) = some (.otherRelease x b)

/-- R83: the class the decoder gives a word is the one row of the opcode map the word matches; no word matches two rows;
with the reference configuration the masks and patterns are R83's numbers. SYM_W is the 8 of R72's and R83's symbol
field. -/
def Obligations.DecodeFollowsTheOpcodeTable : Prop :=
  (∀ (c : Config) (w : CmdWord), c.WF → c.symW = 8 →
    (decode c w).map Instr.commandClass = tableClass c w ∧
    ∀ row ∈ opcodeRows c, ∀ row' ∈ opcodeRows c, row.matches c w = true → row'.matches c w = true → row = row') ∧
  (opcodeRows referenceConfig).map (fun row => (row.cls.mnemonic, row.mask.toNat, row.pattern.toNat)) =
    [("SEED", 0x300000000, 0x100000000), ("NEXT", 0x3FFFFFFFF, 0x200000000),
     ("TOGGLE.P", 0x3FFFFFDFF, 0x000000180), ("TOGGLE.R", 0x3FFFFFDFF, 0x000000080),
     ("RESEED.P", 0x3FFFFFDFF, 0x000000108), ("RESEED.R", 0x3FFFFFDFF, 0x000000008),
     ("ALPHA.P", 0x3FFFFFD00, 0x000000100), ("ALPHA.R", 0x3FFFFFD00, 0x000000000),
     ("OTHER.P", 0x3FFFFFD00, 0x000000100), ("OTHER.R", 0x3FFFFFD00, 0x000000000)]

/-- R75: the four classes, each by its own condition (under a well-formed configuration the order of the tests does not
matter), and how many symbols of the reference configuration fall into each. -/
def Obligations.ClassifyByConditionNotByOrder : Prop :=
  (∀ (c : Config) (x : Nat), c.WF →
    (classify c x = .toggle ↔ x = c.kcToggle) ∧
    (classify c x = .reseed ↔ x = c.kcReseed) ∧
    (classify c x = .alpha ↔ c.kcA ≤ x ∧ x ≤ c.kcA + 25) ∧
    (classify c x = .other ↔
      x ≠ c.kcToggle ∧ x ≠ c.kcReseed ∧ ¬ (c.kcA ≤ x ∧ x ≤ c.kcA + 25))) ∧
  classify referenceConfig 0x80 = .toggle ∧ classify referenceConfig 0x08 = .reseed ∧
  (∀ x : Nat, 0x41 ≤ x → x ≤ 0x5A → classify referenceConfig x = .alpha) ∧
  ((List.range 256).filter fun n => classify referenceConfig n == .other).length = 228

/-- R77: `index_of` is `symbol - KC_A` on letters and lands in 0..25; `symbol_of` is `KC_A + index` with no carry out of the
symbol's SYM_W bits and gives a letter; each undoes the other. -/
def Obligations.LetterConversionsAreInverse : Prop :=
  ∀ c : Config, c.WF →
    (∀ (x : Nat) (h : classify c x = .alpha),
      (indexOf c x h).val = x - c.kcA ∧ c.kcA ≤ x ∧ symbolOf c (indexOf c x h) = x) ∧
    (∀ letter : Letter, symbolOf c letter = c.kcA + letter.val ∧ symbolOf c letter < 2 ^ c.symW ∧
      ∃ h : classify c (symbolOf c letter) = .alpha, indexOf c (symbolOf c letter) h = letter)

/-- R80: an integer of any size or sign is loaded modulo 2^32 with a non-negative result; the value of a SEED word is its
low 32 bits as they stand; the action and rest bits are bits 8 and 9 as they stand and the symbol the low 8 bits. -/
def Obligations.OperandsAreUsedAsTheyStand : Prop :=
  (∀ v : Int, ((seedOperand v).toNat : Int) = v % 4294967296) ∧
  seedOperand (-1) = 0xFFFFFFFF#32 ∧
  (∀ (c : Config) (w : CmdWord), w.toNat / 2 ^ 32 = 1 →
    decode c w = some (.seed (BitVec.ofNat 32 (w.toNat % 2 ^ 32)))) ∧
  (∀ (w : CmdWord) (x : Nat) (a : Action) (b : Bool), decodeCmd w = some (.key x a b) →
    x = w.toNat % 2 ^ 8 ∧ (a = .press ↔ w.toNat / 2 ^ 8 % 2 = 1) ∧ (b = true ↔ w.toNat / 2 ^ 9 % 2 = 1))

/-- Words written out from R72 to R74 and R83, one or more of each class, decode to the instructions they stand for. Derived
from 30_encoding.md sections 3 and 8 and the vectors of 95_test_vectors.md section 7. -/
def Obligations.SampleWordsDecode : Prop :=
  decode referenceConfig 0b0100000000000000000000010011010010#34 = some (.seed 1234#32) ∧
  decode referenceConfig 0b1000000000000000000000000000000000#34 = some .next ∧
  decode referenceConfig 0b0000000000000000000000001110000000#34 = some (.togglePress true) ∧
  decode referenceConfig 0b0000000000000000000000000010000000#34 = some (.toggleRelease false) ∧
  decode referenceConfig 0b0000000000000000000000001101011010#34 = some (.alphaPress 25 true) ∧
  decode referenceConfig 0b0000000000000000000000000001000001#34 = some (.alphaRelease 0 false) ∧
  decode referenceConfig 0b0000000000000000000000001100001000#34 = some (.reseedPress true) ∧
  decode referenceConfig 0b0000000000000000000000000000001000#34 = some (.reseedRelease false) ∧
  decode referenceConfig 0b0000000000000000000000001101000000#34 = some (.otherPress 0x40 true) ∧
  decode referenceConfig 0b0000000000000000000000000000000000#34 = some (.otherRelease 0x00 false) ∧
  decode referenceConfig 0b0000000000000000000000010000000000#34 = none

/-- The packing of the words into bytes puts bits [7:0] in the first byte and loses nothing. Derived from 20_memory.md
section 2 (R53 says that no rule depends on it); the length and the padding are the model's choice, log entry 12. -/
def Obligations.PackedWordsRoundTrip : Prop :=
  (∀ w : CmdWord, unpackCmd (packCmd w) = some w ∧ (packCmd w).length = 5 ∧
    (packCmd w).head? = some (BitVec.ofNat 8 (w.toNat % 256))) ∧
  (∀ (bs : List Byte) (w : CmdWord), unpackCmd bs = some w → packCmd w = bs) ∧
  (∀ r : RspWord, natOfBytes (packRsp r) = r.toNat ∧ (packRsp r).length = 3)

/-- R78: the fields of the response word stand where R78's table puts them, the word stands for its response and no other,
every command gives exactly one response and with SYM_W = 8 (or less) that response has its 17-bit word, the host receives
exactly its forwarded event, its draw is the new ROT exactly when `next()` ran, and SEED and NEXT have `consumed` = 0. -/
def Obligations.ResponseWordFields : Prop :=
  (∀ (r : Rsp) (w : RspWord), r.word = some w →
    w.toNat / 2 ^ 16 = r.draw.isSome.toNat ∧
    w.toNat / 2 ^ 11 % 2 ^ 5 = r.draw.getD 0 ∧
    w.toNat / 2 ^ 10 % 2 = r.consumed.toNat ∧
    w.toNat / 2 ^ 9 % 2 = r.fwd.isSome.toNat ∧
    w.toNat / 2 ^ 8 % 2 = ((r.fwd.map fun e => (decide (e.action = .press)).toNat).getD 0) ∧
    w.toNat % 2 ^ 8 = ((r.fwd.map (·.symbol)).getD 0) ∧
    Rsp.ofWord w = r) ∧
  (∀ (i : Instr) (s : State), ∃ (t : State) (r : Rsp), exec i s = .next t ∧ t.rsp = some r ∧ t.rsps = s.rsps ++ [r] ∧
    t.hostStream = s.hostStream ++ r.fwd.toList ∧
    (s.config.WF → i.wf s.config = true → s.config.symW ≤ 8 → ∃ w, r.word = some w) ∧
    r.draw = (if i.draws s.config then some t.rot else none) ∧ (i.draws s.config = true → 1 ≤ t.rot ∧ t.rot ≤ 25) ∧
    (i.commandClass = .seed ∨ i.commandClass = .next → r.consumed = false))

/-- R81: the four combinations of `consumed` and a forwarded event, by class. -/
def Obligations.ConsumedAndForwardedByClass : Prop :=
  ∀ (i : Instr) (s : State), ∃ (t : State) (r : Rsp), exec i s = .next t ∧ t.rsp = some r ∧
    match i.commandClass with
    | .seed | .next => r.consumed = false ∧ r.fwd = none
    | .toggleP | .toggleR => r.consumed = true ∧ r.fwd = none
    | .alphaP | .alphaR => if s.en then r.consumed = true ∧ r.fwd.isSome = true
        else r.consumed = false ∧ r.fwd = originalEvent (i.toCmd s.config)
    | .reseedP | .reseedR | .otherP | .otherR => r.consumed = false ∧ r.fwd = originalEvent (i.toCmd s.config)

/-- R7: the conditions of a well-formed configuration, and the refusal of any other. -/
def Obligations.IllFormedConfigurationIsRefused : Prop :=
  (∀ c : Config, c.WF ↔
    (c.kcA + 25 < 2 ^ c.symW ∧ c.kcToggle < 2 ^ c.symW ∧ c.kcReseed < 2 ^ c.symW ∧ c.kcToggle ≠ c.kcReseed ∧
      (c.kcToggle < c.kcA ∨ c.kcA + 25 < c.kcToggle) ∧ (c.kcReseed < c.kcA ∨ c.kcA + 25 < c.kcReseed) ∧
      c.rotReset ≤ 25 ∧ c.rotW ≥ 5)) ∧
  ∀ s : State, step s = .refused .illFormedConfiguration ↔ ¬ s.config.WF

/-! ### The PRNG -/

/-- R102: SEED loads the value into SEED, draws nothing and changes nothing else; its word is the value under `op` = 1. -/
def Obligations.SeedCommandLoadsSeedOnly : Prop :=
  (∀ (v : SeedWord) (s : State), exec (.seed v) s = .next (answer { s with seed := v } ⟨false, none, none⟩)) ∧
  (∀ (c : Config) (v : SeedWord), decode c (BitVec.ofNat 34 (0x100000000 + v.toNat)) = some (.seed v))

/-- R106: NEXT advances SEED, stores the draw in ROT, answers it, and changes nothing else, whatever REST and EN hold. -/
def Obligations.NextCommandDraws : Prop :=
  (∀ s : State, exec .next s =
    .next (answer (afterDraw s) ⟨false, none, some (drawn (advanced s.seed))⟩)) ∧
  (∀ c : Config, decode c 0x200000000#34 = some .next)

/-- R103: what `next()` writes, that it answers what it wrote to ROT, and that it runs inside NEXT and the drawing reseed key
events and nowhere else: every other command leaves ROT alone, and SEED too unless it is a seed load. -/
def Obligations.NextRunsOnlyInsideDraws : Prop :=
  (∀ s : State, s.draw = afterDraw s) ∧
  ∀ (i : Instr) (s t : State), exec i s = .next t →
    (i.draws s.config = true → t.seed.toNat = advanced s.seed ∧ t.rot = drawn (advanced s.seed) ∧
      t.rsp.bind (·.draw) = some t.rot) ∧
    (i.draws s.config = false → t.rot = s.rot ∧ (i.commandClass ≠ .seed → t.seed = s.seed))

/-- R100: the advance is the low 32 bits of the exact sum, wrapping and not stopping, and the product fits in 63 bits; it is
what a draw does to SEED. -/
def Obligations.AdvanceWrapsModulo2To32 : Prop :=
  (∀ x : SeedWord, (lcgStep x).toNat = (x.toNat * 1103515245 + 12345) % 2 ^ 32 ∧ x.toNat * 1103515245 < 2 ^ 63) ∧
  ∀ s : State, s.draw.seed = lcgStep s.seed

/-- Computing the advance in 64-bit or in 32-bit arithmetic gives the same. Derived: the last sentence of R100
(40_prng.md section 1) is marked as the spec's own inference. -/
def Obligations.AdvanceIsTheSameInAnyArithmetic : Prop :=
  ∀ x : SeedWord,
    (lcgStep x).toNat = (12345 + (1103515245 * x.toNat) % 2 ^ 64) % 2 ^ 64 % 2 ^ 32 ∧
    lcgStep x = 12345#32 + 1103515245#32 * x

/-- R101 and R104: the output function is the upper half, at most 65535, modulo 25, plus 1, and a draw applies it to the NEW
seed; it is in 1 to 25 for every seed, the low 16 bits have no influence on it, and both ends are reached. -/
def Obligations.DrawIsFrom1To25 : Prop :=
  (∀ x : SeedWord, reduce x = x.toNat / 65536 % 25 + 1 ∧ x.toNat / 65536 ≤ 65535) ∧
  (∀ s : State, s.draw.rot = s.draw.seed.toNat / 65536 % 25 + 1 ∧ 1 ≤ s.draw.rot ∧ s.draw.rot ≤ 25) ∧
  (∀ x y : SeedWord, x.toNat / 65536 = y.toNat / 65536 → reduce x = reduce y) ∧
  (∀ s : State, s.seed = 0#32 → s.draw.rot = 1) ∧
  (∃ x : SeedWord, ∀ s : State, s.seed = x → s.draw.rot = 25)

/-- R105: a draw depends on SEED alone; loading the same seed and drawing gives the same seed and the same rotation from any
two states. -/
def Obligations.DrawIsDeterminedBySeed : Prop :=
  (∀ s t : State, s.seed = t.seed → s.draw.seed = t.draw.seed ∧ s.draw.rot = t.draw.rot) ∧
  ∀ (s t : State) (v : SeedWord) (ps ps' : List Presented), s.config.WF → t.config.WF →
    s.cmds = (Cmd.seed v).present :: Cmd.next.present :: ps → t.cmds = (Cmd.seed v).present :: Cmd.next.present :: ps' →
    ∃ s' t', run 2 s = .next s' ∧ run 2 t = .next t' ∧ s'.seed = t'.seed ∧ s'.rot = t'.rot ∧ s'.rsp = t'.rsp

/-- The advance is a bijection without a fixed point, with the inverse 95_test_vectors.md section 3 gives, so a draw always
changes SEED. Derived: 40_prng.md section 6 marks R109 as its own inference. -/
def Obligations.AdvanceIsABijectionWithoutFixedPoint : Prop :=
  Function.Bijective lcgStep ∧ (∀ x, lcgStep x ≠ x) ∧
  (∀ x : SeedWord, lcgStep (4005161829#32 * (x - 12345#32)) = x) ∧
  ∀ s : State, s.draw.seed ≠ s.seed

/-- How often each draw occurs over the 65536 upper halves: 2622 times for 1 to 11, 2621 times for 12 to 25. Derived:
40_prng.md section 6 marks R111 as its own inference. -/
def Obligations.DrawCountsOverUpperHalves : Prop :=
  ∀ d : Nat, 1 ≤ d → d ≤ 25 →
    ((List.range 65536).filter fun h => reduce (BitVec.ofNat 32 (h * 65536)) == d).length = if d ≤ 11 then 2622 else 2621

/-! ### The CipherEngine, one statement for each KEY command -/

/-- R122: TOGGLE.P latches REST, flips EN, is consumed with nothing forwarded, and changes nothing else; two presses in a
row restore EN. -/
def Obligations.TogglePressFlipsEn : Prop :=
  (∀ (b : Bool) (s : State), exec (.togglePress b) s =
    .next (answer { s with rest := b, en := !s.en } ⟨true, none, none⟩)) ∧
  (∀ (b b' : Bool) (s t u : State), exec (.togglePress b) s = .next t → exec (.togglePress b') t = .next u → u.en = s.en) ∧
  decode referenceConfig 0x000000180#34 = some (.togglePress false) ∧
  decode referenceConfig 0x000000380#34 = some (.togglePress true)

/-- R123: TOGGLE.R latches REST, is consumed with nothing forwarded, and changes nothing else. -/
def Obligations.ToggleReleaseIsANoOp : Prop :=
  (∀ (b : Bool) (s : State), exec (.toggleRelease b) s = .next (answer { s with rest := b } ⟨true, none, none⟩)) ∧
  decode referenceConfig 0x000000080#34 = some (.toggleRelease false) ∧
  decode referenceConfig 0x000000280#34 = some (.toggleRelease true)

/-- R124: ALPHA.P with EN = 0 passes the letter through, not consumed; with EN = 1 it is consumed and the letter
`(index + 13 + ROT) mod 26` is forwarded as a press. Only REST is written. -/
def Obligations.LetterPressIsTransformedWhenOn : Prop :=
  (∀ (letter : Letter) (b : Bool) (s : State),
    exec (.alphaPress letter b) s = .next (letterOutcome letter .press b s)) ∧
  (∀ (letter : Letter) (b : Bool),
    decode referenceConfig (BitVec.ofNat 34 (0x100 + (0x41 + letter.val) + 0x200 * b.toNat)) = some (.alphaPress letter b))

/-- R125: ALPHA.R does with a release what ALPHA.P does with a press: the same forward transform of the released key's own
letter, under the current EN and ROT. Only REST is written. -/
def Obligations.LetterReleaseIsTransformedWhenOn : Prop :=
  (∀ (letter : Letter) (b : Bool) (s : State),
    exec (.alphaRelease letter b) s = .next (letterOutcome letter .release b s)) ∧
  (∀ (letter : Letter) (b : Bool),
    decode referenceConfig (BitVec.ofNat 34 ((0x41 + letter.val) + 0x200 * b.toNat)) = some (.alphaRelease letter b))

/-- R126: RESEED.P draws exactly when its rest bit is 1, whatever EN is; the event is forwarded unchanged and not consumed
either way. SEED always changes with the draw. -/
def Obligations.ReseedPressDrawsAtRest : Prop :=
  (∀ (b : Bool) (s : State), exec (.reseedPress b) s = .next (reseedOutcome b .press b s)) ∧
  (∀ s t : State, exec (.reseedPress true) s = .next t → t.seed ≠ s.seed) ∧
  decode referenceConfig 0x000000108#34 = some (.reseedPress false) ∧
  decode referenceConfig 0x000000308#34 = some (.reseedPress true)

/-- R127: RESEED.R draws exactly when RESEED_ON_RELEASE holds and its rest bit is 1; the event is forwarded unchanged and
not consumed either way. -/
def Obligations.ReseedReleaseDrawsAtRestIfConfigured : Prop :=
  (∀ (b : Bool) (s : State),
    exec (.reseedRelease b) s = .next (reseedOutcome (s.config.reseedOnRelease && b) .release b s)) ∧
  decode referenceConfig 0x000000008#34 = some (.reseedRelease false) ∧
  decode referenceConfig 0x000000208#34 = some (.reseedRelease true)

/-- R128: OTHER.P is forwarded bit for bit as a press, not consumed, whatever EN is; only REST is written. -/
def Obligations.OtherPressPassesThrough : Prop :=
  (∀ (x : Nat) (b : Bool) (s : State),
    exec (.otherPress x b) s = .next (answer { s with rest := b } ⟨false, some ⟨x, .press⟩, none⟩)) ∧
  (∀ (x : Nat) (b : Bool), x < 2 ^ 8 → classify referenceConfig x = .other →
    decode referenceConfig (BitVec.ofNat 34 (0x100 + x + 0x200 * b.toNat)) = some (.otherPress x b))

/-- R129: OTHER.R is forwarded bit for bit as a release, not consumed, whatever EN is; only REST is written. -/
def Obligations.OtherReleasePassesThrough : Prop :=
  (∀ (x : Nat) (b : Bool) (s : State),
    exec (.otherRelease x b) s = .next (answer { s with rest := b } ⟨false, some ⟨x, .release⟩, none⟩)) ∧
  (∀ (x : Nat) (b : Bool), x < 2 ^ 8 → classify referenceConfig x = .other →
    decode referenceConfig (BitVec.ofNat 34 (x + 0x200 * b.toNat)) = some (.otherRelease x b))

/-! ### The machine as a whole -/

/-- R136: every instruction, in every state, gives one next state and one response, and takes no other command off the
channel. -/
def Obligations.EveryInstructionAnswersOnce : Prop :=
  ∀ (i : Instr) (s : State), ∃ (t : State) (r : Rsp),
    exec i s = .next t ∧ t.rsp = some r ∧ t.rsps = s.rsps ++ [r] ∧ t.cmds = s.cmds ∧ t.config = s.config

/-- A step runs the decoded instruction on the state with the item taken off the channel, and idles when nothing is
presented. Derived from 30_encoding.md section 2 and 60_exceptions.md section 5; that an item may be a command presented as
such, and that an idle step leaves the response port alone, are the model's choices, log entries 4 and 6. -/
def Obligations.StepRunsTheDecodedInstruction : Prop :=
  (∀ (s : State) (p : Presented) (ps : List Presented) (i : Instr), s.config.WF → s.cmds = p :: ps →
    p.decode s.config = some i → step s = exec i { s with cmds := ps }) ∧
  (∀ s : State, s.config.WF → s.cmds = [] → step s = .next s)

/-- A step is refused in exactly two cases, an ill-formed configuration and what is no command: a reserved word. Derived:
60_exceptions.md section 5 marks R184 as its own inference; that a symbol not of SYM_W bits is refused like a reserved word
is the model's choice, log entry 4. -/
def Obligations.RefusalsAreExactlyTwo : Prop :=
  ∀ (s : State) (r : Refusal), step s = .refused r ↔
    ((¬ s.config.WF ∧ r = .illFormedConfiguration) ∨
      (s.config.WF ∧ ∃ (p : Presented) (ps : List Presented), s.cmds = p :: ps ∧ noCommand s.config p ∧
        r = .reservedWord p))

/-- R120: a KEY command leaves its rest bit in REST, runs the rule of its class and action, and never reads the value REST
had before; SEED and NEXT leave REST alone. -/
def Obligations.KeyCommandsLatchRestFirst : Prop :=
  (∀ (s : State) (p : Presented) (ps : List Presented) (x : Nat) (a : Action) (b : Bool), s.config.WF →
    s.cmds = p :: ps → p.cmd s.config = some (.key x a b) →
    ∃ (s' : State) (i : Instr), step s = .next s' ∧ s'.rest = b ∧ p.decode s.config = some i ∧
      exec i { s with cmds := ps } = .next s' ∧
      i.commandClass = (match classify s.config x, a with
        | .toggle, .press => .toggleP | .toggle, .release => .toggleR
        | .alpha, .press => .alphaP | .alpha, .release => .alphaR
        | .reseed, .press => .reseedP | .reseed, .release => .reseedR
        | .other, .press => .otherP | .other, .release => .otherR) ∧
      ∀ q : Bool, step { s with rest := q } = .next s') ∧
  (∀ (s s' : State) (p : Presented) (ps : List Presented), s.cmds = p :: ps →
    ((∃ v, p.cmd s.config = some (.seed v)) ∨ p.cmd s.config = some .next) → step s = .next s' → s'.rest = s.rest)

/-- R121: EN starts OFF, TOGGLE.P flips it, no other command changes it, and letters pass through while it is OFF and are
transformed by `rotn(index, ROT)` while it is ON. -/
def Obligations.ToggleMachineOnEn : Prop :=
  (∀ c : Config, (State.resetOf c).en = false) ∧
  ∀ (s : State) (p : Presented) (ps : List Presented) (i : Instr), s.config.WF → s.cmds = p :: ps →
    p.decode s.config = some i → ∃ s', step s = .next s' ∧
      s'.en = (if i.commandClass = .toggleP then !s.en else s.en) ∧
      ∀ (x : Nat) (a : Action) (b : Bool) (h : classify s.config x = .alpha), p.cmd s.config = some (.key x a b) →
        s'.rsp = some (if s.en then ⟨true, some ⟨symbolOf s.config (rotn (indexOf s.config x h) s.rot), a⟩, none⟩
          else ⟨false, some ⟨x, a⟩, none⟩)

/-- Which commands may change which register, and that no step writes the configuration or takes more than one item off the
channel. Derived from 10_state.md sections 1 to 3 (the writers' column of R20's table; R21 and R22 mark the "no other"
as their own inference). -/
def Obligations.RegistersChangeOnlyByTheirWriters : Prop :=
  ∀ s s' : State, step s = .next s' →
    s'.config = s.config ∧ s'.cmds = s.cmds.tail ∧
    (s'.seed ≠ s.seed ∨ s'.rot ≠ s.rot ∨ s'.en ≠ s.en ∨ s'.rest ≠ s.rest →
      ∃ (p : Presented) (ps : List Presented) (i : Instr), s.cmds = p :: ps ∧ p.decode s.config = some i ∧
        (s'.seed ≠ s.seed → i.commandClass = .seed ∨ i.draws s.config = true) ∧
        (s'.rot ≠ s.rot → i.draws s.config = true) ∧
        (s'.en ≠ s.en → i.commandClass = .toggleP) ∧
        (s'.rest ≠ s.rest → i.commandClass ≠ .seed ∧ i.commandClass ≠ .next))

/-- The step is the one table of R135, computed from the bits of the word and the four registers: where the table has a
row, the step gives exactly that row, its one response, and the rest of the stream; where it has none, the step refuses
what is presented. Derived: 41_cipher_engine.md section 7 marks R135 as its own inference; the bits and the refusal are
those of 30_encoding.md sections 3 and 7; that a command may be presented as such, and that a symbol not of SYM_W bits is
refused, are the model's choice, log entry 4. -/
def Obligations.StepIsTheWholeTable : Prop :=
  ∀ (s : State) (p : Presented) (ps : List Presented), s.config.WF → s.cmds = p :: ps →
    match stepTable s.config p s.seed.toNat s.rot s.en s.rest with
    | some row => ∃ (s' : State) (r : Rsp), step s = .next s' ∧ rowOf s' r = row ∧ s'.rsp = some r ∧
        s'.rsps = s.rsps ++ [r] ∧ s'.cmds = ps ∧ s'.config = s.config
    | none => step s = .refused (.reservedWord p)

/-- With EN = 0 every KEY command other than the toggle key is forwarded bit for bit and not consumed; with EN = 1 so is
every KEY command that is neither a letter nor the toggle key. Derived: 41_cipher_engine.md section 7 marks R132 as its
own inference. -/
def Obligations.PassThroughIsBitForBit : Prop :=
  ∀ (s : State) (p : Presented) (ps : List Presented) (x : Nat) (a : Action) (b : Bool), s.config.WF → s.cmds = p :: ps →
    p.cmd s.config = some (.key x a b) → classify s.config x ≠ .toggle →
    (s.en = false ∨ classify s.config x ≠ .alpha) →
    ∃ (s' : State) (r : Rsp), step s = .next s' ∧ s'.rsp = some r ∧ r.consumed = false ∧ r.fwd = some ⟨x, a⟩ ∧
      ∀ w : CmdWord, p = .word w →
        r.fwd = some ⟨w.toNat % 2 ^ 8, if w.toNat / 2 ^ 8 % 2 = 1 then .press else .release⟩

/-- What one command adds to the host-visible stream: exactly one event for a KEY command that is not the toggle key,
otherwise none; with the command's own action; never the toggle key; the command's own symbol, or, for a letter with
EN = 1, a letter. Derived: 41_cipher_engine.md section 7 marks R133 as its own inference. -/
def Obligations.OneHostEventPerKeyCommand : Prop :=
  ∀ (s s' : State) (p : Presented) (ps : List Presented) (cmd : Cmd), s.config.WF → s.cmds = p :: ps →
    p.cmd s.config = some cmd → step s = .next s' →
    match cmd with
    | .seed _ => s'.hostStream = s.hostStream
    | .next => s'.hostStream = s.hostStream
    | .key x a _ =>
      if classify s.config x = .toggle then s'.hostStream = s.hostStream
      else ∃ y : Nat, s'.hostStream = s.hostStream ++ [⟨y, a⟩] ∧ y < 2 ^ s.config.symW ∧
        classify s.config y ≠ .toggle ∧
        (y = x ∨ (s.en = true ∧ classify s.config x = .alpha ∧ classify s.config y = .alpha))

/-- A step reads nothing but the command, the configuration and the four registers: two states that agree on these, whatever
they have answered before and whatever is waiting behind the command, give the same registers and the same response.
Derived: 10_state.md section 5 marks R37 as its own inference. -/
def Obligations.NoHiddenState : Prop :=
  ∀ (s t s' : State) (p : Presented) (ps ps' : List Presented), s.config = t.config → sameRegisters s t →
    s.cmds = p :: ps → t.cmds = p :: ps' → step s = .next s' →
    ∃ (t' : State) (r : Rsp), step t = .next t' ∧ sameRegisters s' t' ∧ s'.rsp = some r ∧ t'.rsp = some r ∧
      s'.rsps = s.rsps ++ [r] ∧ t'.rsps = t.rsps ++ [r]

/-- What the reseed key does to SEED, ROT and REST, and its response, do not depend on EN, and it leaves EN alone; TOGGLE.P
draws nothing. Derived: 41_cipher_engine.md section 7 marks R130 as its own inference and decision. -/
def Obligations.ReseedKeyIgnoresEn : Prop :=
  (∀ (s : State) (p : Presented) (ps : List Presented) (x : Nat) (a : Action) (b e : Bool), s.config.WF →
    s.cmds = p :: ps → p.cmd s.config = some (.key x a b) → classify s.config x = .reseed →
    ∃ s' t', step s = .next s' ∧ step { s with en := e } = .next t' ∧ s'.en = s.en ∧ t' = { s' with en := e }) ∧
  (∀ (b : Bool) (s t : State), exec (.togglePress b) s = .next t → t.seed = s.seed ∧ t.rot = s.rot)

/-- R159: what a letter is forwarded as depends on the letter, EN, ROT and the configuration only: not on the action, SEED,
REST, the rest bit or anything that happened before. -/
def Obligations.SubstitutionDependsOnEnAndRotOnly : Prop :=
  ∀ (s t : State) (p p' : Presented) (ps ps' : List Presented) (x : Nat) (a a' : Action) (b b' : Bool), s.config.WF →
    s.config = t.config → s.en = t.en → s.rot = t.rot → s.cmds = p :: ps → t.cmds = p' :: ps' →
    p.cmd s.config = some (.key x a b) → p'.cmd s.config = some (.key x a' b') → classify s.config x = .alpha →
    ∃ (s' t' : State) (q : Bool) (y : Nat), step s = .next s' ∧ step t = .next t' ∧
      s'.rsp = some ⟨q, some ⟨y, a⟩, none⟩ ∧ t'.rsp = some ⟨q, some ⟨y, a'⟩, none⟩

/-! ### Runs -/

/-- R56: in every run each response is given in the order of its command, none is dropped, duplicated or merged, the host
sees the forwarded events in that order, and the next command runs on the state the commands before it left. -/
def Obligations.ResponsesComeInCommandOrder : Prop :=
  ∀ (k : Nat) (s s' : State), run k s = .next s' →
    (∃ new : List Rsp, s'.rsps = s.rsps ++ new ∧ new.length = min k s.cmds.length ∧
      s.cmds = s.cmds.take new.length ++ s'.cmds ∧ s'.hostStream = s.hostStream ++ new.filterMap (·.fwd)) ∧
    run (k + 1) s = step s'

/-- R194: every stream of legal commands is accepted and answered to the end: after `k` steps the first `k` have been
answered, one response each, and after all of them none is left. -/
def Obligations.LegalStreamIsAnsweredToTheEnd : Prop :=
  ∀ s : State, s.config.WF → (∀ p ∈ s.cmds, ¬ noCommand s.config p) →
    (∀ k : Nat, k ≤ s.cmds.length → ∃ s' : State, run k s = .next s' ∧ s'.cmds = s.cmds.drop k ∧
      s'.rsps.length = s.rsps.length + k) ∧
    ∃ s' : State, run s.cmds.length s = .next s' ∧ s'.cmds = [] ∧ s'.rsps.length = s.rsps.length + s.cmds.length

/-- R33: EN is 0 after reset, and from any state with EN = 0 a stream of legal commands without a press of the toggle key
leaves EN at 0 and hands the host exactly the original events, in order (a release of the toggle key hands it nothing). -/
def Obligations.KeysPassThroughUntilTheTogglePress : Prop :=
  (∀ c : Config, (State.resetOf c).en = false) ∧
  ∀ s : State, s.config.WF → s.en = false →
    (∀ p ∈ s.cmds, ∃ i, p.decode s.config = some i ∧ i.commandClass ≠ .toggleP) →
    ∃ s' : State, run s.cmds.length s = .next s' ∧ s'.en = false ∧
      s'.hostStream = s.hostStream ++
        s.cmds.filterMap fun p =>
          ((p.cmd s.config).bind originalEvent).filter fun e => classify s.config e.symbol != .toggle

/-- If no command between the press of a letter and its release is TOGGLE.P, NEXT or a reseed key event that draws, the
release hands the host the same symbol as the press did. Derived: 41_cipher_engine.md section 7 marks R131 as its own
inference. -/
def Obligations.QuietStretchKeepsTheLetter : Prop :=
  ∀ (s : State) (letter : Letter) (b b' : Bool) (mid tail : List Presented), s.config.WF →
    s.cmds = letterCommand s.config letter .press b :: (mid ++ letterCommand s.config letter .release b' :: tail) →
    (∀ p ∈ mid, p.quiet s.config = true) →
    ∃ (s1 s2 : State) (q : Bool) (y : Nat), run 1 s = .next s1 ∧ run (mid.length + 2) s = .next s2 ∧
      s1.rsp = some ⟨q, some ⟨y, .press⟩, none⟩ ∧ s2.rsp = some ⟨q, some ⟨y, .release⟩, none⟩ ∧ s2.cmds = tail

/-- Under a truthful observer the rest gate does what it is for: while a letter is held, no reseed key event draws, so a
stretch without TOGGLE.P, NEXT and the release of the letter itself leaves its release reporting the same symbol as its
press. Derived from 70_reset_and_hazards.md section 4 (R196 to R198, marked as its own inference) and 41_cipher_engine.md
section 7. -/
def Obligations.TruthfulObserverKeepsTheLetter : Prop :=
  ∀ (s : State) (letter : Letter) (b b' : Bool) (held : List Nat) (mid tail : List Presented), s.config.WF →
    s.cmds = letterCommand s.config letter .press b :: (mid ++ letterCommand s.config letter .release b' :: tail) →
    truthful s.config held (letterCommand s.config letter .press b :: mid) = true →
    undisturbed s.config (symbolOf s.config letter) mid = true →
    ∃ (s1 s2 : State) (q : Bool) (y : Nat), run 1 s = .next s1 ∧ run (mid.length + 2) s = .next s2 ∧
      s1.rsp = some ⟨q, some ⟨y, .press⟩, none⟩ ∧ s2.rsp = some ⟨q, some ⟨y, .release⟩, none⟩ ∧
      (∀ p ∈ mid, p.quiet s.config = true) ∧ s2.rot = s.rot ∧ s2.en = s.en ∧ s2.cmds = tail

/-! ### The transformer -/

/-- R150: `rotn` is the remainder modulo 26 of the exact sum, which is at most 69 for every index and every rotation of
R150's range. -/
def Obligations.RotnIsTheRemainder : Prop :=
  ∀ (letter : Letter) (rot : Nat),
    (rotn letter rot).val = (letter.val + 13 + rot) % 26 ∧ (rot ≤ 31 → letter.val + 13 + rot ≤ 69)

/-- R152: the transformed symbol is a letter for every letter and every rotation. -/
def Obligations.TransformedLetterIsALetter : Prop :=
  ∀ (c : Config) (letter : Letter) (rot : Nat), c.WF →
    classify c (symbolOf c (rotn letter rot)) = .alpha ∧
    c.kcA ≤ symbolOf c (rotn letter rot) ∧ symbolOf c (rotn letter rot) ≤ c.kcA + 25

/-- Under one rotation the substitution is a bijection of the letters' keycodes. Derived: 42_rotn_transformer.md section 2
marks R154 as its own inference. -/
def Obligations.SubstitutionIsABijectionOfLetters : Prop :=
  ∀ (c : Config) (rot : Nat), c.WF →
    (∀ l l' : Letter, symbolOf c (rotn l rot) = symbolOf c (rotn l' rot) → l = l') ∧
    (∀ y : Nat, classify c y = .alpha → ∃ l : Letter, symbolOf c (rotn l rot) = y)

/-- A letter is reported as itself exactly under rotation 13, and applying the substitution twice is the identity exactly
under rotations 0, 13 and 26, of the rotations of R150's range. Derived: 42_rotn_transformer.md section 2 marks R155 as its
own inference. -/
def Obligations.FixedPointsAndSelfInverseRotations : Prop :=
  ∀ (c : Config) (rot : Nat), c.WF → rot ≤ 31 →
    (∀ l : Letter, symbolOf c (rotn l rot) = symbolOf c l ↔ rot = 13) ∧
    ((∀ l : Letter, symbolOf c (rotn (rotn l rot) rot) = symbolOf c l) ↔
      rot = 0 ∨ rot = 13 ∨ rot = 26)

/-- The inverse of 42_rotn_transformer.md section 2 undoes the transform, in both of its forms, and the two-stage form with
one conditional subtraction a stage computes it, for every rotation of R150's range. Derived: R153 and R157 are marked as
the spec's own inferences. -/
def Obligations.InverseAndTwoStageForms : Prop :=
  ∀ (l : Letter) (rot : Nat), rot ≤ 31 →
    unrotn (rotn l rot) rot = l ∧ rotn (unrotn l rot) rot = l ∧
    (unrotn l rot).val = (l.val + 13 + 26 - rot % 26) % 26 ∧
    (let k := if 13 + rot ≥ 26 then 13 + rot - 26 else 13 + rot
     effectiveShift rot = k ∧ (rotn l rot).val = if l.val + k ≥ 26 then l.val + k - 26 else l.val + k)

/-! ### Reset, outputs and invariants -/

/-- R31 and R32: after reset SEED is 1234 and ROT is ROT_RESET, for every well-formed configuration; EN is 0, REST is
REST_RESET, no response is presented. -/
def Obligations.ResetValues : Prop :=
  (∀ c : Config, c.WF → (State.resetOf c).config = c ∧ (State.resetOf c).seed = 1234#32 ∧
    (State.resetOf c).rot = c.rotReset ∧ (State.resetOf c).rot ≤ 25 ∧ (State.resetOf c).rot < 2 ^ c.rotW ∧
    (State.resetOf c).en = false ∧ (State.resetOf c).rest = c.restReset ∧ (State.resetOf c).rsp = none) ∧
  ∀ c : Config, (State.resetOf c).seed.toNat = 0x000004D2

/-- The machine's own reset state is the one of the reference configuration, whose values are those of R6. Derived from
00_scope.md section 4: that `State.reset` takes the reference configuration is the model's choice, log entry 3; nothing is
said here of the ROT it holds, log entry 2. -/
def Obligations.MachineResetsToTheReferenceConfiguration : Prop :=
  State.reset = State.resetOf referenceConfig ∧ referenceConfig.WF ∧ referenceConfig.symW = 8 ∧
  referenceConfig.rotW = 5 ∧ referenceConfig.kcA = 0x41 ∧
  referenceConfig.kcToggle = 0x80 ∧ referenceConfig.kcReseed = 0x08 ∧ referenceConfig.reseedOnRelease = true ∧
  State.reset.rest = true ∧ Sys2Proof.core.reset = State.reset

/-- A pulse of `rst` puts the four registers at their reset values whatever they held, presents no response and accepts no
command. Derived from 70_reset_and_hazards.md section 1; that the environment's lists survive is the model's choice, log
entry 11. -/
def Obligations.ResetPulseRestoresTheRegisters : Prop :=
  ∀ s : State,
    sameRegisters s.pulseReset (State.resetOf s.config) ∧ s.pulseReset.config = s.config ∧
    s.pulseReset.cmds = s.cmds ∧ s.pulseReset.rsps = s.rsps ∧
    s.portsInReset.cmdReady = false ∧ s.portsInReset.rspValid = false ∧ s.portsInReset.seedQ = 1234#32 ∧
    s.portsInReset.enQ = 0#1

/-- R36: each status output equals its register. (R36 writes five bits for `rot_q`; its width where ROT_W is more than 5 is
log entry 16, and the statement is about the value.) -/
def Obligations.StatusOutputsShowTheRegisters : Prop :=
  ∀ s : State, s.ports.seedQ = s.seed ∧ s.ports.rotQ = s.rot ∧ (s.ports.enQ = 1#1 ↔ s.en = true) ∧
    (s.ports.restQ = 1#1 ↔ s.rest = true)

/-- The reset state of every well-formed configuration satisfies the invariant, whatever stream is waiting. Derived from
10_state.md sections 4 and 5 (R32, R38), 00_scope.md section 4 (R7) and 70_reset_and_hazards.md section 1 (R191); that no
response has been received at reset is the model's choice, log entry 5. -/
def Obligations.ResetSatisfiesTheInvariant : Prop :=
  ∀ (c : Config) (ps : List Presented), c.WF → StateInv { State.resetOf c with cmds := ps }

/-- Every step keeps the invariant, from every state that has it: well-formed configuration, ROT at most 25 and of ROT_W
bits, only legal responses given, the port showing the last one. Derived: 10_state.md section 5 marks R38 as its own
inference, of the registers; that the configuration stays and ROT is of ROT_W bits rests on 00_scope.md section 4 (R7) and
10_state.md sections 1 and 2 (R22, R28), the responses on 30_encoding.md sections 1 and 6 (R70, R78, R81), 41_cipher_engine.md
section 7 (R133) and 40_prng.md section 2 (R104), the port on 20_memory.md section 3 (R56). That symbols not of SYM_W bits are
refused, that State holds the responses, and that an idle step leaves the port alone are the model's choices, log entries 4,
5 and 6. -/
def Obligations.StepKeepsTheInvariant : Prop :=
  ∀ s s' : State, StateInv s → step s = .next s' → StateInv s'

/-- Once `next()` has run, ROT is in 1 to 25, and every later step keeps it there; only a draw can bring it there from 0.
Derived: 10_state.md section 5 marks R38 (I-b) as its own inference, which rests on 40_prng.md section 2 (R103, R104); that
only a draw takes ROT away from 0 rests on 10_state.md section 1 (R20, R22), and that the response shows it on
30_encoding.md section 6 (R78). -/
def Obligations.DrawnRotationStaysFrom1To25 : Prop :=
  ∀ s s' : State, step s = .next s' →
    ((1 ≤ s.rot ∧ s.rot ≤ 25) ∨
      (∃ (p : Presented) (ps : List Presented) (i : Instr), s.cmds = p :: ps ∧ p.decode s.config = some i ∧
        i.draws s.config = true) → 1 ≤ s'.rot ∧ s'.rot ≤ 25) ∧
    (s.rot = 0 → s'.rot ≠ 0 → ∃ (r : Rsp), s'.rsp = some r ∧ r.draw = some s'.rot)

/-- Every reachable state satisfies the invariant. Derived from 70_reset_and_hazards.md sections 1 and 3 (R191, R192, R194)
for the runs, and for the invariant from 10_state.md sections 1, 2 and 5 (R22, R28, R38), 00_scope.md section 4 (R7),
30_encoding.md sections 1 and 6 (R70, R78, R81), 41_cipher_engine.md section 7 (R133), 40_prng.md section 2 (R104) and
20_memory.md section 3 (R56), with the model's choices of log entries 4, 5 and 6. -/
def Obligations.ReachableStatesSatisfyTheInvariant : Prop := ∀ s : State, Reachable s → StateInv s

/-! ### Scripts -/

/-- R84 and R85: the words of the four example lines, the default of `rest=`, and the expansion of every pseudo-command. -/
def Obligations.ScriptLinesExpand : Prop :=
  (parseLine "PRESS A rest=1").map (ScriptLine.expand referenceConfig) = some [.present (.word 0x000000341#34)] ∧
  (parseLine "RELEASE A").map (ScriptLine.expand referenceConfig) = some [.present (.word 0x000000241#34)] ∧
  (parseLine "SEED 1234").map (ScriptLine.expand referenceConfig) = some [.present (.word 0x1000004D2#34)] ∧
  (parseLine "NEXT").map (ScriptLine.expand referenceConfig) = some [.present (.word 0x200000000#34)] ∧
  (parseLine "TAP #31").map (ScriptLine.expand referenceConfig) = 
    some [.present (.word 0x000000331#34), .present (.word 0x000000231#34)] ∧
  (∀ (c : Config) (sym : ScriptSym), ScriptLine.expand c (.tap sym) =
    ScriptLine.expand c (.press sym true) ++ ScriptLine.expand c (.release sym true)) ∧
  (∀ (c : Config) (letters : List Letter),
    ScriptLine.expand c (.type letters) = letters.flatMap fun l => ScriptLine.expand c (.tap (.letter l))) ∧
  (∀ c : Config, ScriptLine.expand c .redraw = ScriptLine.expand c (.tap .reseed) ∧
    ScriptLine.expand c .on = ScriptLine.expand c (.tap .toggle) ∧
    ScriptLine.expand c .off = ScriptLine.expand c (.tap .toggle)) ∧
  ∀ s : State, runItem .reset s = .next s.pulseReset
end

