-- ==== Sys2Proof/Laws/Words.lean ====
section
/-! SUPPORT. The fields of the words as numbers, and the conversions of Machine/Operands.lean as numbers. -/

namespace Sys2Proof

theorem CmdWord.op_toNat (w : CmdWord) : w.op.toNat = w.toNat / 2 ^ 32 := by
  have := w.isLt
  simp only [CmdWord.op, BitVec.extractLsb'_toNat, Nat.shiftRight_eq_div_pow]
  omega

theorem CmdWord.payload_toNat (w : CmdWord) : w.payload.toNat = w.toNat % 2 ^ 32 := by
  simp [CmdWord.payload, BitVec.extractLsb'_toNat]

theorem CmdWord.reservedBits_toNat (w : CmdWord) : w.reservedBits.toNat = w.toNat / 2 ^ 10 % 2 ^ 22 := by
  simp [CmdWord.reservedBits, BitVec.extractLsb'_toNat, Nat.shiftRight_eq_div_pow]

theorem CmdWord.symbol_toNat (w : CmdWord) : w.symbol.toNat = w.toNat % 2 ^ 8 := by
  simp [CmdWord.symbol, BitVec.extractLsb'_toNat]

/-- A bit of a vector as a number. -/
theorem getLsbD_eq_decide {n : Nat} (w : BitVec n) (k : Nat) : w.getLsbD k = decide (w.toNat / 2 ^ k % 2 = 1) := by
  rw [← BitVec.testBit_toNat, Nat.testBit_eq_decide_div_mod_eq]

theorem CmdWord.restBit_eq (w : CmdWord) : w.restBit = decide (w.toNat / 2 ^ 9 % 2 = 1) := getLsbD_eq_decide w 9

theorem CmdWord.actionBit_eq (w : CmdWord) : w.actionBit = decide (w.toNat / 2 ^ 8 % 2 = 1) := getLsbD_eq_decide w 8

/-- The numbers a KEY word is made of. -/
theorem keyWord_toNat {x : Nat} (hx : x < 2 ^ 8) (a : Action) (b : Bool) :
    (keyWord x a b).toNat = b.toNat * 2 ^ 9 + (Machine.actionBit a).toNat * 2 ^ 8 + x := by
  have hb := Bool.toNat_le b
  have ha := Bool.toNat_le (Machine.actionBit a)
  simp only [keyWord, BitVec.toNat_ofNat]
  omega

/-- The number of a SEED word. -/
theorem seedWord_toNat (v : SeedWord) : (encodeCmd (.seed v)).toNat = 2 ^ 32 + v.toNat := by
  have := v.isLt
  simp only [encodeCmd, BitVec.toNat_ofNat]
  omega

/-! ### Operands -/

/-- The conditions of R7 as propositions. -/
theorem Config.wf_iff {c : Config} : c.WF ↔
    (c.kcA + 25 < 2 ^ c.symW ∧ c.kcToggle < 2 ^ c.symW ∧ c.kcReseed < 2 ^ c.symW ∧ c.kcToggle ≠ c.kcReseed ∧
      ¬ (c.kcA ≤ c.kcToggle ∧ c.kcToggle ≤ c.kcA + 25) ∧ ¬ (c.kcA ≤ c.kcReseed ∧ c.kcReseed ≤ c.kcA + 25) ∧
      c.rotReset ≤ 25 ∧ 5 ≤ c.rotW) := by
  simp only [Config.WF, Config.wf, Bool.and_eq_true, Bool.not_eq_true', decide_eq_true_eq, decide_eq_false_iff_not, ge_iff_le]
  tauto

/-- A symbol of SYM_W <= 8 bits fits the eight bits of a word. -/
theorem lt_word_of_symW {c : Config} (hc : c.symW ≤ 8) {x : Nat} (hx : x < 2 ^ c.symW) : x < 2 ^ 8 :=
  lt_of_lt_of_le hx (Nat.pow_le_pow_right (by decide) hc)

/-- Eight bits are a symbol of SYM_W >= 8 bits. -/
theorem lt_symW_of_word {c : Config} (hc : 8 ≤ c.symW) {x : Nat} (hx : x < 2 ^ 8) : x < 2 ^ c.symW :=
  lt_of_lt_of_le hx (Nat.pow_le_pow_right (by decide) hc)

namespace Machine

/-- The sum of R77 never carries out of SYM_W bits. -/
theorem symbolOf_eq {c : Config} (h : c.WF) (l : Letter) : symbolOf c l = c.kcA + l.val := by
  have := l.isLt
  have := (Config.wf_iff.mp h).1
  exact Nat.mod_eq_of_lt (by omega)

theorem symbolOf_lt (c : Config) (l : Letter) : symbolOf c l < 2 ^ c.symW := Nat.mod_lt _ (Nat.two_pow_pos _)

/-- The toggle key is the only symbol of its class, under any configuration. -/
theorem classify_eq_toggle {c : Config} {x : Nat} : classify c x = .toggle ↔ x = c.kcToggle := by
  unfold classify
  split
  · simp_all
  · split
    · simp_all
    · split <;> simp_all

theorem classify_toggleKey (c : Config) : classify c c.kcToggle = .toggle := classify_eq_toggle.mpr rfl

/-- The one symbol of class RESEED is the reseed key's. -/
theorem eq_of_classify_reseed {c : Config} {x : Nat} (hx : classify c x = .reseed) : x = c.kcReseed := by
  unfold classify at hx
  split at hx
  · cases hx
  · split at hx
    · assumption
    · split at hx <;> cases hx

theorem classify_reseedKey {c : Config} (h : c.WF) : classify c c.kcReseed = .reseed := by
  have := (Config.wf_iff.mp h).2.2.2.1
  simp [classify, Ne.symm this]

theorem classify_symbolOf {c : Config} (h : c.WF) (l : Letter) : classify c (symbolOf c l) = .alpha := by
  have hl := l.isLt
  obtain ⟨-, -, -, -, ht, hr, -⟩ := Config.wf_iff.mp h
  have n1 : ¬ c.kcA + l.val = c.kcToggle := by omega
  have n2 : ¬ c.kcA + l.val = c.kcReseed := by omega
  have p : c.kcA ≤ c.kcA + l.val ∧ c.kcA + l.val ≤ c.kcA + 25 := by omega
  simp only [classify, symbolOf_eq h, n1, n2, p, if_false, if_true, and_self]

/-- A letter's keycode is of SYM_W bits. -/
theorem lt_of_classify_alpha {c : Config} (h : c.WF) {x : Nat} (hx : classify c x = .alpha) : x < 2 ^ c.symW := by
  have := alpha_bounds hx
  have := (Config.wf_iff.mp h).1
  omega

theorem actionOfBit_actionBit (a : Action) : actionOfBit (actionBit a) = a := by cases a <;> rfl

theorem actionBit_actionOfBit (b : Bool) : actionBit (actionOfBit b) = b := by cases b <;> rfl

theorem symbolOf_indexOf {c : Config} (h : c.WF) {x : Nat} (hx : classify c x = .alpha) :
    symbolOf c (indexOf c x hx) = x := by
  have := alpha_bounds hx
  rw [symbolOf_eq h]
  simp only [indexOf]
  omega

theorem indexOf_symbolOf {c : Config} (h : c.WF) (l : Letter) (hx : classify c (symbolOf c l) = .alpha) :
    indexOf c (symbolOf c l) hx = l := by
  apply Fin.ext
  have := symbolOf_eq h l
  simp only [indexOf]
  omega

end Machine

end Sys2Proof
end

