-- ==== Sys2Proof/Laws/Decoding.lean ====
section
/-! SUPPORT. What the decoder answers, case by case of the word's fields, and of a command's own word. -/

namespace Sys2Proof

theorem decodeCmd_seed {w : CmdWord} (h : w.op = 1#2) : decodeCmd w = some (.seed w.payload) := by
  simp [decodeCmd, h]

/-- The words that decode, and what to (R72 to R74). -/
theorem decodeCmd_cases {w : CmdWord} {cmd : Cmd} (h : decodeCmd w = some cmd) :
    (w.op = 1#2 ∧ cmd = .seed w.payload) ∨ (w.op = 2#2 ∧ w.payload = 0#32 ∧ cmd = .next) ∨
    (w.op = 0#2 ∧ w.reservedBits = 0#22 ∧ cmd = .key w.symbol.toNat (Machine.actionOfBit w.actionBit) w.restBit) := by
  unfold decodeCmd at h
  split at h
  · exact .inl ⟨‹_›, by simpa using h.symm⟩
  · split at h
    · split at h
      · exact .inr (.inl ⟨‹_›, ‹_›, by simpa using h.symm⟩)
      · cases h
    · split at h
      · split at h
        · exact .inr (.inr ⟨‹_›, ‹_›, by simpa using h.symm⟩)
        · cases h
      · cases h

/-- Decoding the word of a command that has one gives the command back. -/
theorem decodeCmd_encodeCmd {cmd : Cmd} (hw : cmd.hasWord = true) : decodeCmd (encodeCmd cmd) = some cmd := by
  cases cmd with
  | seed v =>
    have hn := seedWord_toNat v
    have hv := v.isLt
    have hop : (encodeCmd (.seed v)).op = 1#2 := by
      apply BitVec.eq_of_toNat_eq
      rw [CmdWord.op_toNat, hn]
      simp only [BitVec.toNat_ofNat]
      omega
    rw [decodeCmd_seed hop]
    congr 2
    apply BitVec.eq_of_toNat_eq
    rw [CmdWord.payload_toNat, hn]
    omega
  | next => decide
  | key x a b =>
    have hx : x < 2 ^ 8 := by simpa [Cmd.hasWord] using hw
    have hn := keyWord_toNat hx a b
    have hb := Bool.toNat_le b
    have ha := Bool.toNat_le (Machine.actionBit a)
    have hop : (keyWord x a b).op = 0#2 := by
      apply BitVec.eq_of_toNat_eq
      rw [CmdWord.op_toNat, hn]
      simp only [BitVec.toNat_ofNat]
      omega
    have hres : (keyWord x a b).reservedBits = 0#22 := by
      apply BitVec.eq_of_toNat_eq
      rw [CmdWord.reservedBits_toNat, hn]
      simp only [BitVec.toNat_ofNat]
      omega
    have hsym : (keyWord x a b).symbol.toNat = x := by
      rw [CmdWord.symbol_toNat, hn]
      omega
    have hrest : (keyWord x a b).restBit = b := by
      rw [CmdWord.restBit_eq, hn]
      cases b <;> cases a <;> simp [Machine.actionBit] <;> omega
    have hact : (keyWord x a b).actionBit = Machine.actionBit a := by
      rw [CmdWord.actionBit_eq, hn]
      cases b <;> cases a <;> simp [Machine.actionBit] <;> omega
    simp [encodeCmd, decodeCmd, hop, hres, hsym, hrest, hact, Machine.actionOfBit_actionBit]

/-- Encoding the command a word decodes to gives the word back. -/
theorem encodeCmd_of_decodeCmd {w : CmdWord} {cmd : Cmd} (h : decodeCmd w = some cmd) : encodeCmd cmd = w := by
  have hw := w.isLt
  apply BitVec.eq_of_toNat_eq
  rcases decodeCmd_cases h with ⟨hop, rfl⟩ | ⟨hop, hpay, rfl⟩ | ⟨hop, hres, rfl⟩
  · have hop := congrArg BitVec.toNat hop
    rw [CmdWord.op_toNat] at hop
    rw [seedWord_toNat, CmdWord.payload_toNat]
    simp only [BitVec.toNat_ofNat] at hop
    omega
  · have hop := congrArg BitVec.toNat hop
    have hpay := congrArg BitVec.toNat hpay
    rw [CmdWord.op_toNat] at hop
    rw [CmdWord.payload_toNat] at hpay
    simp only [encodeCmd, BitVec.toNat_ofNat] at hop hpay ⊢
    omega
  · have hop := congrArg BitVec.toNat hop
    have hres := congrArg BitVec.toNat hres
    rw [CmdWord.op_toNat] at hop
    rw [CmdWord.reservedBits_toNat] at hres
    simp only [encodeCmd]
    rw [keyWord_toNat w.symbol.isLt]
    simp only [CmdWord.symbol_toNat, Machine.actionBit_actionOfBit, CmdWord.restBit_eq, CmdWord.actionBit_eq]
    simp only [BitVec.toNat_ofNat] at hop hres
    rcases Nat.mod_two_eq_zero_or_one (w.toNat / 2 ^ 9) with h9 | h9 <;>
      rcases Nat.mod_two_eq_zero_or_one (w.toNat / 2 ^ 8) with h8 | h8 <;>
        simp only [h8, h9, decide_true, decide_false, Bool.toNat_true, Bool.toNat_false, Nat.zero_ne_one] <;> omega

/-- A word is reserved exactly when it decodes to no command (R79, R86). -/
theorem reserved_iff_decodeCmd {w : CmdWord} : w.reserved = true ↔ decodeCmd w = none := by
  unfold decodeCmd CmdWord.reserved
  by_cases h1 : w.op = 1#2
  · simp [h1]
  by_cases h2 : w.op = 2#2
  · simp [h2]
  by_cases h0 : w.op = 0#2
  · simp [h0]
  have hlt := w.op.isLt
  have h3 : w.op = 3#2 := by
    apply BitVec.eq_of_toNat_eq
    rw [← BitVec.toNat_inj] at h1 h2 h0
    simp only [BitVec.toNat_ofNat] at *
    omega
  simp [h3]

/-- A word is determined by its five fields. -/
theorem CmdWord.eq_iff_fields {w w' : CmdWord} : w = w' ↔ w.op = w'.op ∧ w.reservedBits = w'.reservedBits ∧
    w.restBit = w'.restBit ∧ w.actionBit = w'.actionBit ∧ w.symbol = w'.symbol := by
  refine ⟨by rintro rfl; simp, ?_⟩
  rintro ⟨hop, hres, hrest, hact, hsym⟩
  have hop := congrArg BitVec.toNat hop
  have hres := congrArg BitVec.toNat hres
  have hsym := congrArg BitVec.toNat hsym
  rw [CmdWord.op_toNat, CmdWord.op_toNat] at hop
  rw [CmdWord.reservedBits_toNat, CmdWord.reservedBits_toNat] at hres
  rw [CmdWord.symbol_toNat, CmdWord.symbol_toNat] at hsym
  rw [CmdWord.restBit_eq, CmdWord.restBit_eq, decide_eq_decide] at hrest
  rw [CmdWord.actionBit_eq, CmdWord.actionBit_eq, decide_eq_decide] at hact
  apply BitVec.eq_of_toNat_eq
  omega

/-- The fields of a KEY word. -/
theorem keyWord_fields {x : Nat} (hx : x < 2 ^ 8) (a : Action) (b : Bool) :
    (keyWord x a b).op = 0#2 ∧ (keyWord x a b).reservedBits = 0#22 ∧ (keyWord x a b).restBit = b ∧
      (keyWord x a b).actionBit = Machine.actionBit a ∧ (keyWord x a b).symbol.toNat = x := by
  rcases decodeCmd_cases (decodeCmd_encodeCmd (cmd := .key x a b) (decide_eq_true hx)) with ⟨-, h⟩ | ⟨-, -, h⟩ | ⟨hop, hres, h⟩
  · cases h
  · cases h
  · injection h with hs ha hb
    refine ⟨hop, hres, hb.symm, ?_, hs.symm⟩
    rw [congrArg Machine.actionBit ha, Machine.actionBit_actionOfBit]
    rfl

/-! ### What an item on the channel is -/

/-- A word is the command it decodes to, if that is one of the configuration. -/
theorem cmd_word {c : Config} {w : CmdWord} {cmd : Cmd} :
    (Presented.word w).cmd c = some cmd ↔ decodeCmd w = some cmd ∧ cmd.fits c = true := by
  simp [Presented.cmd, Option.filter_eq_some_iff]

/-- A command is itself, if it is one of the configuration. -/
theorem cmd_command {c : Config} {cmd cmd' : Cmd} :
    (Presented.command cmd).cmd c = some cmd' ↔ cmd' = cmd ∧ cmd.fits c = true := by
  simp only [Presented.cmd, Option.filter_eq_some_iff, Option.some.injEq]
  constructor <;> rintro ⟨rfl, h⟩ <;> exact ⟨rfl, h⟩

/-- The command of an item is one of the configuration. -/
theorem fits_of_cmd {c : Config} {p : Presented} {cmd : Cmd} (h : p.cmd c = some cmd) : cmd.fits c = true :=
  (Option.filter_eq_some_iff.mp h).2

/-- What the environment presents for a command is that command. -/
theorem cmd_present {c : Config} {cmd : Cmd} (h : cmd.fits c = true) : cmd.present.cmd c = some cmd := by
  unfold Cmd.present
  split
  · exact cmd_word.mpr ⟨decodeCmd_encodeCmd ‹_›, h⟩
  · exact cmd_command.mpr ⟨rfl, h⟩

theorem decode_eq_some {c : Config} {p : Presented} {i : Instr} (h : p.decode c = some i) :
    ∃ cmd, p.cmd c = some cmd ∧ cmd.toInstr c = i := by
  simpa [Presented.decode] using h

theorem decode_of_cmd {c : Config} {p : Presented} {cmd : Cmd} (h : p.cmd c = some cmd) :
    p.decode c = some (cmd.toInstr c) := by simp [Presented.decode, h]

theorem decode_eq_none {c : Config} {p : Presented} : p.decode c = none ↔ p.cmd c = none := by simp [Presented.decode]

/-- The word of a command of the configuration decodes to its instruction. -/
theorem decode_encodeCmd {c : Config} {cmd : Cmd} (hf : cmd.fits c = true) (hw : cmd.hasWord = true) :
    decode c (encodeCmd cmd) = some (cmd.toInstr c) := decode_of_cmd (cmd_word.mpr ⟨decodeCmd_encodeCmd hw, hf⟩)

/-! ### What the dispatch answers for a symbol of each class (R120) -/

theorem dispatchKey_toggle {c : Config} {x : Nat} (h : Machine.classify c x = .toggle) (a : Action) (b : Bool) :
    dispatchKey c x a b = (match a with | .press => .togglePress b | .release => .toggleRelease b) := by
  cases a <;> unfold dispatchKey <;> split <;> simp_all

theorem dispatchKey_reseed {c : Config} {x : Nat} (h : Machine.classify c x = .reseed) (a : Action) (b : Bool) :
    dispatchKey c x a b = (match a with | .press => .reseedPress b | .release => .reseedRelease b) := by
  cases a <;> unfold dispatchKey <;> split <;> simp_all

theorem dispatchKey_alpha {c : Config} {x : Nat} (h : Machine.classify c x = .alpha) (a : Action) (b : Bool) :
    dispatchKey c x a b = (match a with
      | .press => .alphaPress (Machine.indexOf c x h) b | .release => .alphaRelease (Machine.indexOf c x h) b) := by
  cases a <;> unfold dispatchKey <;> split <;> simp_all

theorem dispatchKey_other {c : Config} {x : Nat} (h : Machine.classify c x = .other) (a : Action) (b : Bool) :
    dispatchKey c x a b = (match a with | .press => .otherPress x b | .release => .otherRelease x b) := by
  cases a <;> unfold dispatchKey <;> split <;> simp_all

end Sys2Proof
end

