-- ==== Sys2Proof/Laws/State.lean ====
section
/-! SUPPORT. One lemma for each field of the state under each operation, so that no later proof unfolds a record update. -/

namespace Sys2Proof.Machine

@[simp] theorem State.latchRest_config (b : Bool) (s : State) : (s.latchRest b).config = s.config := rfl
@[simp] theorem State.latchRest_seed (b : Bool) (s : State) : (s.latchRest b).seed = s.seed := rfl
@[simp] theorem State.latchRest_rot (b : Bool) (s : State) : (s.latchRest b).rot = s.rot := rfl
@[simp] theorem State.latchRest_en (b : Bool) (s : State) : (s.latchRest b).en = s.en := rfl
@[simp] theorem State.latchRest_rest (b : Bool) (s : State) : (s.latchRest b).rest = b := rfl
@[simp] theorem State.latchRest_rsp (b : Bool) (s : State) : (s.latchRest b).rsp = s.rsp := rfl
@[simp] theorem State.latchRest_cmds (b : Bool) (s : State) : (s.latchRest b).cmds = s.cmds := rfl
@[simp] theorem State.latchRest_rsps (b : Bool) (s : State) : (s.latchRest b).rsps = s.rsps := rfl

@[simp] theorem State.flipEn_config (s : State) : (s.flipEn).config = s.config := rfl
@[simp] theorem State.flipEn_seed (s : State) : (s.flipEn).seed = s.seed := rfl
@[simp] theorem State.flipEn_rot (s : State) : (s.flipEn).rot = s.rot := rfl
@[simp] theorem State.flipEn_en (s : State) : (s.flipEn).en = !s.en := rfl
@[simp] theorem State.flipEn_rest (s : State) : (s.flipEn).rest = s.rest := rfl
@[simp] theorem State.flipEn_rsp (s : State) : (s.flipEn).rsp = s.rsp := rfl
@[simp] theorem State.flipEn_cmds (s : State) : (s.flipEn).cmds = s.cmds := rfl
@[simp] theorem State.flipEn_rsps (s : State) : (s.flipEn).rsps = s.rsps := rfl

@[simp] theorem State.loadSeed_config (v : SeedWord) (s : State) : (s.loadSeed v).config = s.config := rfl
@[simp] theorem State.loadSeed_seed (v : SeedWord) (s : State) : (s.loadSeed v).seed = v := rfl
@[simp] theorem State.loadSeed_rot (v : SeedWord) (s : State) : (s.loadSeed v).rot = s.rot := rfl
@[simp] theorem State.loadSeed_en (v : SeedWord) (s : State) : (s.loadSeed v).en = s.en := rfl
@[simp] theorem State.loadSeed_rest (v : SeedWord) (s : State) : (s.loadSeed v).rest = s.rest := rfl
@[simp] theorem State.loadSeed_rsp (v : SeedWord) (s : State) : (s.loadSeed v).rsp = s.rsp := rfl
@[simp] theorem State.loadSeed_cmds (v : SeedWord) (s : State) : (s.loadSeed v).cmds = s.cmds := rfl
@[simp] theorem State.loadSeed_rsps (v : SeedWord) (s : State) : (s.loadSeed v).rsps = s.rsps := rfl

@[simp] theorem State.draw_config (s : State) : (s.draw).config = s.config := rfl
@[simp] theorem State.draw_seed (s : State) : (s.draw).seed = lcgStep s.seed := rfl
@[simp] theorem State.draw_rot (s : State) : (s.draw).rot = reduce (lcgStep s.seed) := rfl
@[simp] theorem State.draw_en (s : State) : (s.draw).en = s.en := rfl
@[simp] theorem State.draw_rest (s : State) : (s.draw).rest = s.rest := rfl
@[simp] theorem State.draw_rsp (s : State) : (s.draw).rsp = s.rsp := rfl
@[simp] theorem State.draw_cmds (s : State) : (s.draw).cmds = s.cmds := rfl
@[simp] theorem State.draw_rsps (s : State) : (s.draw).rsps = s.rsps := rfl

@[simp] theorem State.respond_config (q : Bool) (f : Option KeyEvent) (d : Option Nat) (s : State) : (s.respond q f d).config = s.config := rfl
@[simp] theorem State.respond_seed (q : Bool) (f : Option KeyEvent) (d : Option Nat) (s : State) : (s.respond q f d).seed = s.seed := rfl
@[simp] theorem State.respond_rot (q : Bool) (f : Option KeyEvent) (d : Option Nat) (s : State) : (s.respond q f d).rot = s.rot := rfl
@[simp] theorem State.respond_en (q : Bool) (f : Option KeyEvent) (d : Option Nat) (s : State) : (s.respond q f d).en = s.en := rfl
@[simp] theorem State.respond_rest (q : Bool) (f : Option KeyEvent) (d : Option Nat) (s : State) : (s.respond q f d).rest = s.rest := rfl
@[simp] theorem State.respond_rsp (q : Bool) (f : Option KeyEvent) (d : Option Nat) (s : State) : (s.respond q f d).rsp = some ⟨q, f, d⟩ := rfl
@[simp] theorem State.respond_cmds (q : Bool) (f : Option KeyEvent) (d : Option Nat) (s : State) : (s.respond q f d).cmds = s.cmds := rfl
@[simp] theorem State.respond_rsps (q : Bool) (f : Option KeyEvent) (d : Option Nat) (s : State) : (s.respond q f d).rsps = s.rsps ++ [⟨q, f, d⟩] := rfl

@[simp] theorem State.present_config (p : Presented) (s : State) : (s.present p).config = s.config := rfl
@[simp] theorem State.present_seed (p : Presented) (s : State) : (s.present p).seed = s.seed := rfl
@[simp] theorem State.present_rot (p : Presented) (s : State) : (s.present p).rot = s.rot := rfl
@[simp] theorem State.present_en (p : Presented) (s : State) : (s.present p).en = s.en := rfl
@[simp] theorem State.present_rest (p : Presented) (s : State) : (s.present p).rest = s.rest := rfl
@[simp] theorem State.present_rsp (p : Presented) (s : State) : (s.present p).rsp = s.rsp := rfl
@[simp] theorem State.present_cmds (p : Presented) (s : State) : (s.present p).cmds = p :: s.cmds := rfl
@[simp] theorem State.present_rsps (p : Presented) (s : State) : (s.present p).rsps = s.rsps := rfl

@[simp] theorem State.pulseReset_config (s : State) : (s.pulseReset).config = s.config := rfl
@[simp] theorem State.pulseReset_seed (s : State) : (s.pulseReset).seed = BitVec.ofNat 32 seedReset := rfl
@[simp] theorem State.pulseReset_rot (s : State) : (s.pulseReset).rot = s.config.rotReset := rfl
@[simp] theorem State.pulseReset_en (s : State) : (s.pulseReset).en = enReset := rfl
@[simp] theorem State.pulseReset_rest (s : State) : (s.pulseReset).rest = s.config.restReset := rfl
@[simp] theorem State.pulseReset_rsp (s : State) : (s.pulseReset).rsp = none := rfl
@[simp] theorem State.pulseReset_cmds (s : State) : (s.pulseReset).cmds = s.cmds := rfl
@[simp] theorem State.pulseReset_rsps (s : State) : (s.pulseReset).rsps = s.rsps := rfl

@[simp] theorem State.idle_eq (s : State) : s.idle = s := rfl

/-! The letter event changes nothing but what `respond` changes. -/

@[simp] theorem State.letterEvent_config (l : Letter) (a : Action) (s : State) : (s.letterEvent l a).config = s.config := by
  unfold State.letterEvent; split <;> rfl

@[simp] theorem State.letterEvent_seed (l : Letter) (a : Action) (s : State) : (s.letterEvent l a).seed = s.seed := by
  unfold State.letterEvent; split <;> rfl

@[simp] theorem State.letterEvent_rot (l : Letter) (a : Action) (s : State) : (s.letterEvent l a).rot = s.rot := by
  unfold State.letterEvent; split <;> rfl

@[simp] theorem State.letterEvent_en (l : Letter) (a : Action) (s : State) : (s.letterEvent l a).en = s.en := by
  unfold State.letterEvent; split <;> rfl

@[simp] theorem State.letterEvent_rest (l : Letter) (a : Action) (s : State) : (s.letterEvent l a).rest = s.rest := by
  unfold State.letterEvent; split <;> rfl

@[simp] theorem State.letterEvent_cmds (l : Letter) (a : Action) (s : State) : (s.letterEvent l a).cmds = s.cmds := by
  unfold State.letterEvent; split <;> rfl

/-- The response of a letter event (R124, R125). -/
def letterRsp (l : Letter) (a : Action) (s : State) : Rsp :=
  if s.en then ⟨true, some ⟨symbolOf s.config (rotn l s.rot), a⟩, none⟩ else ⟨false, some ⟨symbolOf s.config l, a⟩, none⟩

@[simp] theorem State.letterEvent_rsp (l : Letter) (a : Action) (s : State) :
    (s.letterEvent l a).rsp = some (letterRsp l a s) := by
  unfold State.letterEvent letterRsp; split <;> rfl

@[simp] theorem State.letterEvent_rsps (l : Letter) (a : Action) (s : State) :
    (s.letterEvent l a).rsps = s.rsps ++ [letterRsp l a s] := by
  unfold State.letterEvent letterRsp; split <;> rfl

/-! The reseed event is a response after a draw, or a response alone. -/

theorem State.reseedEvent_draws {edgeDraws : Bool} {s : State} (a : Action) (h : (edgeDraws && s.rest) = true) :
    s.reseedEvent edgeDraws a = s.draw.respond false (some ⟨s.config.kcReseed, a⟩) (some s.draw.rot) := by
  simp [State.reseedEvent, h]

theorem State.reseedEvent_passes {edgeDraws : Bool} {s : State} (a : Action) (h : (edgeDraws && s.rest) = false) :
    s.reseedEvent edgeDraws a = s.respond false (some ⟨s.config.kcReseed, a⟩) none := by
  simp [State.reseedEvent, h]

@[simp] theorem State.reseedEvent_config (e : Bool) (a : Action) (s : State) : (s.reseedEvent e a).config = s.config := by
  unfold State.reseedEvent; split <;> rfl

@[simp] theorem State.reseedEvent_en (e : Bool) (a : Action) (s : State) : (s.reseedEvent e a).en = s.en := by
  unfold State.reseedEvent; split <;> rfl

@[simp] theorem State.reseedEvent_rest (e : Bool) (a : Action) (s : State) : (s.reseedEvent e a).rest = s.rest := by
  unfold State.reseedEvent; split <;> rfl

@[simp] theorem State.reseedEvent_cmds (e : Bool) (a : Action) (s : State) : (s.reseedEvent e a).cmds = s.cmds := by
  unfold State.reseedEvent; split <;> rfl

@[simp] theorem State.respond_hostStream (q : Bool) (f : Option KeyEvent) (d : Option Nat) (s : State) :
    (s.respond q f d).hostStream = s.hostStream ++ f.toList := by
  cases f <;> simp [State.hostStream]

end Sys2Proof.Machine
end

