-- ==== Sys2Proof/Laws/Ops.lean ====
section
/-! SUPPORT. The generator and the transformer as numbers (spec/40_prng.md rules R100, R101, R107; spec/42_rotn_transformer.md
rule R150). -/

namespace Sys2Proof.Machine

/-- The advance keeps the low 32 bits of the exact sum. -/
theorem lcgStep_toNat (x : SeedWord) : (lcgStep x).toNat = (lcgC + lcgA * x.toNat) % 2 ^ 32 := by
  simp only [lcgStep, BitVec.toNat_ofNat]

/-- The exact product fits in 63 bits (R107). -/
theorem product_lt (x : SeedWord) : x.toNat * lcgA < 2 ^ 63 := by
  have := x.isLt
  simp only [lcgA]
  omega

/-- The reduction lands in 1 to 25, whatever the seed (R104: "it follows from rule R101 alone"). -/
theorem reduce_bounds (x : SeedWord) : 1 ≤ reduce x ∧ reduce x ≤ 25 := by
  simp only [reduce, outMod, outOff, outDiv]
  omega

/-- ROT after a draw is in 1 to 25. -/
theorem draw_rot_bounds (s : State) : 1 ≤ s.draw.rot ∧ s.draw.rot ≤ 25 := reduce_bounds _

/-- A value up to 25 is of ROT_W >= 5 bits. -/
theorem lt_rotW {c : Config} (h : c.WF) {d : Nat} (hd : d ≤ 25) : d < 2 ^ c.rotW :=
  lt_of_lt_of_le (by omega : d < 2 ^ 5) (Nat.pow_le_pow_right (by decide) (Config.wf_iff.mp h).2.2.2.2.2.2.2)

/-- The value of the transform. -/
theorem rotn_val (l : Letter) (rot : Nat) : (rotn l rot).val = (l.val + 13 + rot) % 26 := rfl

end Sys2Proof.Machine
end

