-- ==== Sys2Proof/Laws/PerInstr.lean ====
section
/-! SUPPORT. Facts about every instruction as syntax, one lemma a constructor. -/

namespace Sys2Proof.Laws.EncodesLegal

/-- The word of an instruction whose command has one is not a reserved word, under any configuration (R79). -/
def Statement (i : Instr) : Prop := ∀ c : Config, (i.toCmd c).hasWord = true → (encode c i).reserved = false

/-- The word of any command that has one is not a reserved word. -/
theorem encodeCmd_not_reserved {cmd : Cmd} (hw : cmd.hasWord = true) : (encodeCmd cmd).reserved = false := by
  have h := decodeCmd_cases (decodeCmd_encodeCmd hw)
  rcases h with ⟨h, -⟩ | ⟨h, h', -⟩ | ⟨h, h', -⟩ <;> simp [CmdWord.reserved, h] <;> simp [h']

theorem seed (value : SeedWord) : Statement (.seed value) := fun _ => encodeCmd_not_reserved
theorem next : Statement .next := fun _ => encodeCmd_not_reserved
theorem togglePress (rest : Bool) : Statement (.togglePress rest) := fun _ => encodeCmd_not_reserved
theorem toggleRelease (rest : Bool) : Statement (.toggleRelease rest) := fun _ => encodeCmd_not_reserved
theorem alphaPress (letter : Letter) (rest : Bool) : Statement (.alphaPress letter rest) := fun _ => encodeCmd_not_reserved
theorem alphaRelease (letter : Letter) (rest : Bool) : Statement (.alphaRelease letter rest) := fun _ => encodeCmd_not_reserved
theorem reseedPress (rest : Bool) : Statement (.reseedPress rest) := fun _ => encodeCmd_not_reserved
theorem reseedRelease (rest : Bool) : Statement (.reseedRelease rest) := fun _ => encodeCmd_not_reserved
theorem otherPress (symbol : Nat) (rest : Bool) : Statement (.otherPress symbol rest) := fun _ => encodeCmd_not_reserved
theorem otherRelease (symbol : Nat) (rest : Bool) : Statement (.otherRelease symbol rest) := fun _ => encodeCmd_not_reserved

end Sys2Proof.Laws.EncodesLegal
end

