-- ==== Sys2Proof/Laws/Step.lean ====
section
/-! SUPPORT. What an instruction and a step can do, said once. -/

namespace Sys2Proof

open Sys2Proof.Machine

/-- What every instruction has in common: a next state that keeps the configuration and the words still waiting, and one
response, on the port and received. -/
theorem exec_frame {i : Instr} {s t : State} (h : exec i s = .next t) :
    t.config = s.config ∧ t.cmds = s.cmds ∧ ∃ r, t.rsp = some r ∧ t.rsps = s.rsps ++ [r] := by
  cases i <;>
    simp only [exec, execSeed, execNext, execTogglePress, execToggleRelease, execAlphaPress, execAlphaRelease,
      execReseedPress, execReseedRelease, execOtherPress, execOtherRelease, Host.Outcome.next.injEq] at h <;>
    subst h
  case reseedPress | reseedRelease =>
    refine ⟨by simp, by simp, ?_⟩
    unfold State.reseedEvent
    split <;> exact ⟨_, rfl, rfl⟩
  all_goals simp

/-- Taking an item off the channel. -/
theorem fetch_cons {s : State} {p : Presented} {ps : List Presented} (h : s.cmds = p :: ps) :
    fetch s = some (p, { s with cmds := ps }) := by simp [fetch, h]

/-- Nothing is presented. -/
theorem fetch_nil {s : State} (h : s.cmds = []) : fetch s = none := by simp [fetch, h]

/-- A step with an item presented, under a well-formed configuration. -/
theorem step_cons {s : State} {p : Presented} {ps : List Presented} (h : s.config.WF) (hc : s.cmds = p :: ps) :
    step s = (match p.decode s.config with
      | none => .refused (.reservedWord p)
      | some i => exec i { s with cmds := ps }) := by
  cases hd : p.decode s.config <;> simp only [step, if_pos h, fetch_cons hc, hd]

/-- Everything a step that answers a next state can have done: idled, or run the instruction of the item presented. -/
theorem step_next_cases {s s' : State} (h : step s = .next s') :
    s.config.WF ∧ ((s.cmds = [] ∧ s' = s) ∨
      ∃ p ps i, s.cmds = p :: ps ∧ p.decode s.config = some i ∧ exec i { s with cmds := ps } = .next s') := by
  unfold step at h
  split at h
  · refine ⟨‹_›, ?_⟩
    cases hc : s.cmds with
    | nil =>
      rw [fetch_nil hc] at h
      exact .inl ⟨rfl, by simpa using h.symm⟩
    | cons p ps =>
      rw [fetch_cons hc] at h
      cases hd : p.decode s.config with
      | none => simp [hd] at h
      | some i => exact .inr ⟨p, ps, i, rfl, hd, by simpa [hd] using h⟩
  · cases h

/-- One step of a run first. -/
theorem run_succ (k : Nat) (s : State) :
    run (k + 1) s = (match step s with | .next s' => run k s' | .fault r => .fault r | .refused r => .refused r) := by
  cases h : step s <;> simp [run, Host.Core.run, core, h]

/-- A run of no step. -/
theorem run_zero (s : State) : run 0 s = .next s := rfl

end Sys2Proof
end

