-- ==== Sys2Proof/Tests/Slice0.lean ====
section
/-! SUPPORT. Tests whose expected results come from the spec's own tables (95_test_vectors.md, 30_encoding.md rule R83,
42_rotn_transformer.md rule R158), the ill-formed terms that well-formedness refuses, and a witness for every statement with
hypotheses. -/

namespace Sys2Proof.Tests

open Sys2Proof Sys2Proof.Machine

/-- A small state: a configuration, the four registers, and the words presented. -/
def st (c : Config) (seed rot : Nat) (en rest : Bool) (cmds : List CmdWord) : State :=
  ⟨c, BitVec.ofNat 32 seed, rot, en, rest, none, cmds.map .word, []⟩

/-- One step as 95_test_vectors.md shows it: SEED, ROT, EN, REST and the response word; none for a stop. -/
def shows (s : State) : Option (Nat × Nat × Bool × Bool × Nat) :=
  match step s with
  | .next t => (t.rsp.bind Rsp.word).map fun w => (t.seed.toNat, t.rot, t.en, t.rest, w.toNat)
  | .fault _ => none
  | .refused _ => none

/-- The reason a step is refused for, if it is. -/
def refusal (s : State) : Option Refusal :=
  match step s with
  | .next _ => none
  | .fault _ => none
  | .refused r => some r

/-- The reference configuration with the other value of RESEED_ON_RELEASE. -/
def pressOnly : Config := { referenceConfig with reseedOnRelease := false }

/-- A configuration wider than the reference: keycodes of 10 bits, a rotation register of 6. -/
def wide : Config := { referenceConfig with symW := 10, rotW := 6, kcA := 300, kcToggle := 1023, kcReseed := 256 }

/-- The narrowest symbols R7 allows: 26 letters and two designated keys in 5 bits. -/
def narrow : Config := { referenceConfig with symW := 5, kcA := 0, kcToggle := 26, kcReseed := 31 }

/-! ### Well-formedness: one ill-formed term for each check (R7, R75) -/

theorem test_well_formed : referenceConfig.WF ∧ pressOnly.WF ∧ wide.WF ∧ narrow.WF := by decide
theorem test_last_letter_beyond_8_bits_is_refused : ¬ { referenceConfig with kcA := 231 }.WF := by decide
theorem test_toggle_code_beyond_8_bits_is_refused : ¬ { referenceConfig with kcToggle := 256 }.WF := by decide
theorem test_reseed_code_beyond_8_bits_is_refused : ¬ { referenceConfig with kcReseed := 256 }.WF := by decide
theorem test_symbols_of_7_bits_are_refused : ¬ { referenceConfig with symW := 7 }.WF := by decide
theorem test_rotation_register_of_4_bits_is_refused : ¬ { referenceConfig with rotW := 4 }.WF := by decide
theorem test_equal_designated_keys_are_refused : ¬ { referenceConfig with kcReseed := 0x80 }.WF := by decide
theorem test_toggle_on_a_letter_is_refused : ¬ { referenceConfig with kcToggle := 0x41 }.WF := by decide
theorem test_reseed_on_a_letter_is_refused : ¬ { referenceConfig with kcReseed := 0x5A }.WF := by decide
theorem test_rotation_reset_above_25_is_refused : ¬ { referenceConfig with rotReset := 26 }.WF := by decide
theorem test_letter_as_other_is_refused : Instr.wf referenceConfig (.otherPress 0x41 true) = false := by decide
theorem test_toggle_as_other_is_refused : Instr.wf referenceConfig (.otherRelease 0x80 true) = false := by decide
theorem test_other_beyond_8_bits_is_refused : Instr.wf referenceConfig (.otherPress 0x100 true) = false := by decide
theorem test_step_refuses_the_ill_formed :
    refusal (st { referenceConfig with rotReset := 26 } 0 0 false true [0x200000000#34]) =
      some .illFormedConfiguration := by decide
theorem test_step_refuses_a_reserved_word :
    refusal (st referenceConfig 0 0 false true [0x300000000#34]) = some (.reservedWord (.word 0x300000000#34)) := by
  decide

/-! ### Decoding: each constructor from a word written out bit by bit from R72 to R74 (`op`, reserved, rest, action, symbol) -/

theorem test_decode_seed :
    decode referenceConfig 0b0111111111111111111111111111111111#34 = some (.seed 0xFFFFFFFF#32) := by decide
theorem test_decode_next : decode referenceConfig 0b1000000000000000000000000000000000#34 = some .next := by decide
theorem test_decode_togglePress :
    decode referenceConfig 0b0000000000000000000000001110000000#34 = some (.togglePress true) := by decide
theorem test_decode_toggleRelease :
    decode referenceConfig 0b0000000000000000000000000010000000#34 = some (.toggleRelease false) := by decide
theorem test_decode_alphaPress :
    decode referenceConfig 0b0000000000000000000000001101011010#34 = some (.alphaPress 25 true) := by decide
theorem test_decode_alphaRelease :
    decode referenceConfig 0b0000000000000000000000000001000001#34 = some (.alphaRelease 0 false) := by decide
theorem test_decode_reseedPress :
    decode referenceConfig 0b0000000000000000000000001100001000#34 = some (.reseedPress true) := by decide
theorem test_decode_reseedRelease :
    decode referenceConfig 0b0000000000000000000000000000001000#34 = some (.reseedRelease false) := by decide
theorem test_decode_otherPress :
    decode referenceConfig 0b0000000000000000000000001101011011#34 = some (.otherPress 0x5B true) := by decide
theorem test_decode_otherRelease :
    decode referenceConfig 0b0000000000000000000000000000000000#34 = some (.otherRelease 0x00 false) := by decide

/-- The reserved words of 95_test_vectors.md section 7. -/
theorem test_decode_reserved :
    [0x000000400#34, 0x080000341#34, 0x200000001#34, 0x300000000#34, 0x3FFFFFFFF#34].all
      (fun w => decode referenceConfig w == none) = true := by decide

/-- A symbol field of 32 is no symbol of 5 bits, one of 31 is (R6, R70; log entry 4). -/
theorem test_decode_narrow : decode narrow 0x000000120#34 = none ∧
    decode narrow 0x00000011F#34 = some (.reseedPress false) := by decide

/-- A keycode of 10 bits, presented as a command (R6, R70; log entry 4): the last letter, and one bit too many. -/
theorem test_decode_wide : (Presented.command (.key 325 .press true)).decode wide = some (.alphaPress 25 true) ∧
    (Presented.command (.key 1024 .press true)).decode wide = none := by decide

/-- The counts at the end of 95_test_vectors.md section 7: 4 TOGGLE, 4 RESEED, 104 ALPHA and 912 OTHER words. -/
theorem test_key_word_counts :
    ([KeyClass.toggle, .reseed, .alpha, .other].map fun k =>
      ((List.range 1024).filter fun n => classify referenceConfig (CmdWord.symbol (BitVec.ofNat 34 n)).toNat == k).length) =
      [4, 4, 104, 912] := by decide +kernel

/-- The host's reading of the opcode table: the row's own numbers give the row's instruction; bit 34 is no command. -/
theorem test_decodeTableWord :
    decodeTableWord 34 0x000000180 = some (.togglePress false) ∧ decodeTableWord 34 0x400000180 = none := by decide

/-- The five bytes of `PRESS A rest=1`, least significant first (20_memory.md R53). -/
theorem test_decodeBytes : decodeBytes referenceConfig [0x41#8, 0x03#8, 0#8, 0#8, 0#8] = some (.alphaPress 0 true) ∧
    decodeBytes referenceConfig [0x41#8, 0x03#8, 0#8, 0#8, 4#8] = none := by decide

/-! ### One step each (95_test_vectors.md section 5; the row's name stands in the comment) -/

/-- G3. -/
theorem test_seed : shows (st referenceConfig 7 5 true false [0x1FFFFFFFF#34]) =
    some (0xFFFFFFFF, 5, true, false, 0x00000) := by decide
/-- G1. -/
theorem test_next_default_seed : shows (st referenceConfig 0x4D2 5 true false [0x200000000#34]) =
    some (0x0DE639A3, 9, true, false, 0x14800) := by decide
/-- G6. -/
theorem test_next_largest_draw : shows (st referenceConfig 0x0DEFA683 0 false true [0x200000000#34]) =
    some (0x00180000, 25, false, true, 0x1C800) := by decide
/-- T5. -/
theorem test_togglePress_on : shows (st referenceConfig 3 4 false true [0x000000180#34]) =
    some (3, 4, true, false, 0x00400) := by decide
/-- T2. -/
theorem test_togglePress_off : shows (st referenceConfig 3 4 true false [0x000000380#34]) =
    some (3, 4, false, true, 0x00400) := by decide
/-- T6. -/
theorem test_toggleRelease : shows (st referenceConfig 3 4 true true [0x000000080#34]) =
    some (3, 4, true, false, 0x00400) := by decide
/-- A12. -/
theorem test_alphaPress_off : shows (st referenceConfig 3 25 false false [0x00000035A#34]) =
    some (3, 25, false, true, 0x0035A) := by decide
/-- A7. -/
theorem test_alphaPress_on : shows (st referenceConfig 3 25 true false [0x00000035A#34]) =
    some (3, 25, true, true, 0x0074C) := by decide
/-- A2. -/
theorem test_alphaRelease_off : shows (st referenceConfig 3 9 false false [0x000000241#34]) =
    some (3, 9, false, true, 0x00241) := by decide
/-- A10. -/
theorem test_alphaRelease_on : shows (st referenceConfig 3 12 true true [0x000000041#34]) =
    some (3, 12, true, false, 0x0065A) := by decide
/-- S1. -/
theorem test_reseedPress_gated : shows (st referenceConfig 0x4D2 7 true true [0x000000108#34]) =
    some (0x4D2, 7, true, false, 0x00308) := by decide
/-- S6. -/
theorem test_reseedPress_draws : shows (st referenceConfig 0x4D2 7 false false [0x000000308#34]) =
    some (0x0DE639A3, 9, false, true, 0x14B08) := by decide
/-- S3. -/
theorem test_reseedRelease_draws : shows (st referenceConfig 0x0DE639A3 9 true false [0x000000208#34]) =
    some (0x07A864A0, 11, true, true, 0x15A08) := by decide
/-- S4. -/
theorem test_reseedRelease_pressOnly : shows (st pressOnly 0x0DE639A3 9 true false [0x000000208#34]) =
    some (0x0DE639A3, 9, true, true, 0x00208) := by decide
/-- R124 with R77, under a configuration of 10-bit symbols and ROT = 25: index 25 is reported as (25 + 13 + 25) mod 26 = 11,
that is keycode 311. -/
theorem test_alphaPress_wide :
    (match step ((st wide 3 25 true false []).present (.command (.key 325 .press true))) with
      | .next t => t.rsp
      | .fault _ => none
      | .refused _ => none) = some ⟨true, some ⟨311, .press⟩, none⟩ := by decide
/-- O6. -/
theorem test_otherPress : shows (st referenceConfig 3 4 true false [0x000000361#34]) =
    some (3, 4, true, true, 0x00361) := by decide
/-- O8. -/
theorem test_otherRelease : shows (st referenceConfig 3 4 true true [0x0000000FF#34]) =
    some (3, 4, true, false, 0x002FF) := by decide

/-! ### The generator, the transformer, the script syntax -/

/-- 95_test_vectors.md section 3: the seed, its successor and its draw. -/
theorem test_draw_corners :
    [(0x00000000, 0x00003039, 1), (0x00000002, 0x838CCD13, 2), (0x80000000, 0x80003039, 19),
      (0xFFFFFFFF, 0xBE39E1CC, 23), (0xFC77A683, 0x00000000, 1), (0x0DBDBB1E, 0xFFFFFFFF, 11)].all
      (fun (v, next, draw) => (lcgStep (BitVec.ofNat 32 v)).toNat == next && reduce (BitVec.ofNat 32 next) == draw) =
      true := by decide

/-- 95_test_vectors.md section 6, X1, X5, X6, X7, X8, X12, X13, X14 and X17. -/
theorem test_rotn_corners :
    [(0, 0, 13), (0, 12, 25), (0, 13, 0), (0, 25, 12), (25, 0, 12), (25, 25, 11), (12, 0, 25), (13, 0, 0), (7, 11, 5)].all
      (fun ((l : Letter), rot, out) => (rotn l rot).val == out) = true := by decide

/-- 42_rotn_transformer.md R158, the row of rotation 9, as keycodes. -/
theorem test_rotn_row_9 :
    ((List.finRange 26).map fun l => Char.ofNat (symbolOf referenceConfig (rotn l 9))) =
      "WXYZABCDEFGHIJKLMNOPQRSTUV".toList := by decide

/-- The undoing example at the end of 95_test_vectors.md section 6: under rotation 9, W comes back as A. -/
theorem test_unrotn : unrotn 22 9 = 0 := by decide

/-- Lines of the programs of 95_test_vectors.md section 8. -/
theorem test_script_lines :
    parseLine "SEED 0xFFFFFFFF" = some (.seed 0xFFFFFFFF#32) ∧
    parseLine "PRESS RESEED rest=0" = some (.press .reseed false) ∧
    parseLine "PRESS #E1" = some (.press (.raw 0xE1) true) ∧
    parseLine (String.ofList ("TYPE ".toList ++ [Char.ofNat 34, 'H', 'E', Char.ofNat 34])) = some (.type [7, 4]) ∧
    parseLine ".RESET" = some .reset ∧ parseLine "JUMP A" = none := by decide

/-- The first press of program P2b's ON (R85), as an item that runs. -/
theorem test_runItem : (ScriptLine.expand referenceConfig .on).map (runItem · (st referenceConfig 3 4 false false [])) =
    [step (st referenceConfig 3 4 false false [0x000000380#34]),
      step (st referenceConfig 3 4 false false [0x000000280#34])] := rfl

/-- The response the host sees is read off the word (R78): S2's response. -/
theorem test_response_word : Rsp.ofWord 0x14B08#17 = ⟨false, some ⟨0x08, .press⟩, some 9⟩ := by decide

/-- A word placed by the host is the very next one run from reset (program P1, step 1). -/
theorem test_withFetchWord : shows (State.reset.withFetchWord 34 0x200000000) =
    some (0x0DE639A3, 9, false, true, 0x14800) := by decide

/-- The outputs while `rst` is asserted (R190). -/
theorem test_ports_in_reset : (st referenceConfig 7 8 true false []).portsInReset =
    ⟨false, false, none, 1234#32, 0, 0#1, 1#1⟩ := by decide

/-! ### Witnesses: a concrete state and operands that meet all the hypotheses of a statement together -/

/-- Both ends of what may stand beside the letters; symbols of exactly 8 bits, and a keycode that has no word. -/
theorem witness_DecodeOfEncodeIsTheInstruction : referenceConfig.WF ∧ referenceConfig.symW ≤ 8 ∧ wide.WF ∧
    Instr.wf referenceConfig (.otherPress 0x40 true) = true ∧ Instr.wf referenceConfig (.otherRelease 0xFF false) = true ∧
    Instr.wf referenceConfig (.alphaPress 25 false) = true ∧
    ((Instr.alphaPress 25 false).toCmd referenceConfig).hasWord = true ∧
    Instr.wf wide (.alphaPress 25 false) = true ∧ ((Instr.alphaPress 25 false).toCmd wide).hasWord = false := by decide

/-- A word, and a command presented as such. -/
theorem witness_DecodedWordIsTheEncoding :
    referenceConfig.WF ∧ decode referenceConfig 0x0000003FF#34 = some (.otherPress 0xFF true) ∧
    (Presented.command (.key 0xFF .press true)).decode referenceConfig = some (.otherPress 0xFF true) := by decide

/-- The step clause, on a reserved word and on a legal one; the OTHER clause, at its lowest and highest symbol. -/
theorem witness_ReservedWordsAreRefused : 8 ≤ referenceConfig.symW ∧
    (st referenceConfig 0 0 false true [0x200000001#34]).config = referenceConfig ∧ referenceConfig.WF ∧
    (st referenceConfig 0 0 false true [0x200000001#34]).cmds = [.word 0x200000001#34] ∧
    (st referenceConfig 0 0 false true [0x000000341#34]).cmds = [.word 0x000000341#34] ∧
    (decode referenceConfig 0x000000341#34).isSome = true ∧
    classify referenceConfig 0x00 = .other ∧ classify referenceConfig 0xFF = .other := by decide

theorem witness_DecodeFollowsTheOpcodeTable : referenceConfig.WF ∧ referenceConfig.symW = 8 ∧
    ∃ row ∈ opcodeRows referenceConfig, row.matches referenceConfig 0x00000035A#34 = true := by decide

/-- The two ends of the letters. -/
theorem witness_ClassifyByConditionNotByOrder : referenceConfig.WF ∧ 0x41 ≤ 0x41 ∧ 0x41 ≤ 0x5A ∧
    0x41 ≤ 0x5A ∧ 0x5A ≤ 0x5A := by decide

theorem witness_LetterConversionsAreInverse : referenceConfig.WF ∧ classify referenceConfig 0x41 = .alpha ∧
    classify referenceConfig 0x5A = .alpha := by decide

/-- One word for each clause. -/
theorem witness_OperandsAreUsedAsTheyStand : (0x1FFFFFFFF#34).toNat / 2 ^ 32 = 1 ∧
    decodeCmd 0x0000003FF#34 = some (.key 0xFF .press true) ∧
    decodeCmd 0x000000000#34 = some (.key 0x00 .release false) := by decide

/-- The largest word, in five bytes. -/
theorem witness_PackedWordsRoundTrip :
    unpackCmd [0xFF#8, 0xFF#8, 0xFF#8, 0xFF#8, 0x03#8] = some 0x3FFFFFFFF#34 := by decide

/-- A response with the largest symbol that has a word, and one instruction for each premise of the second clause. -/
theorem witness_ResponseWordFields : Rsp.word ⟨false, some ⟨0xFF, .press⟩, some 25⟩ = some 0x1CBFF#17 ∧
    Rsp.word ⟨true, some ⟨0x100, .press⟩, none⟩ = none ∧
    referenceConfig.WF ∧ Instr.wf referenceConfig (.otherPress 0xFF true) = true ∧ referenceConfig.symW ≤ 8 ∧
    Instr.draws referenceConfig (.reseedRelease true) = true ∧
    (Instr.seed 0#32).commandClass = .seed ∧ Instr.next.commandClass = .next := by decide

/-- Both directions: a well-formed configuration and one that is not. -/
theorem witness_IllFormedConfigurationIsRefused : (st referenceConfig 0 0 false true []).config.WF ∧
    ¬ (st { referenceConfig with kcToggle := 0x5A } 0 0 false true []).config.WF := by decide

/-- A drawing instruction, one that does not draw, and one that is not a seed load. -/
theorem witness_NextRunsOnlyInsideDraws (s : State) : (∃ t, exec (.reseedPress true) s = .next t) ∧
    Instr.draws s.config (.reseedPress true) = true ∧ (∃ t, exec (.reseedPress false) s = .next t) ∧
    Instr.draws s.config (.reseedPress false) = false ∧ (Instr.reseedPress false).commandClass ≠ .seed :=
  ⟨⟨_, rfl⟩, rfl, ⟨_, rfl⟩, rfl, by decide⟩

theorem witness_DrawIsFrom1To25 : (0x00180000#32).toNat / 65536 = (0x0018FFFF#32).toNat / 65536 ∧
    (st referenceConfig 0 0 false true []).seed = 0#32 ∧
    (st referenceConfig 0x0DEFA683 0 false true []).seed = 0x0DEFA683#32 := by decide

/-- Two states that differ in everything but the commands. -/
theorem witness_DrawIsDeterminedBySeed :
    (st referenceConfig 5 1 true false []).seed = (st pressOnly 5 25 false true []).seed ∧
    referenceConfig.WF ∧ pressOnly.WF ∧
    (st referenceConfig 1 1 true false [0x100000000#34, 0x200000000#34]).cmds =
      [(Cmd.seed 0#32).present, Cmd.next.present] ∧
    (st pressOnly 2 25 false true [0x100000000#34, 0x200000000#34, 0#34]).cmds =
      [(Cmd.seed 0#32).present, Cmd.next.present, .word 0#34] := by decide

/-- Both ends, and both sides of the change of the count. -/
theorem witness_DrawCountsOverUpperHalves : [1, 11, 12, 25].all (fun d => decide (1 ≤ d ∧ d ≤ 25)) = true := by decide

theorem witness_TogglePressFlipsEn (s : State) :
    ∃ t u, exec (.togglePress true) s = .next t ∧ exec (.togglePress false) t = .next u := ⟨_, _, rfl, rfl⟩

theorem witness_ReseedPressDrawsAtRest (s : State) : ∃ t, exec (.reseedPress true) s = .next t := ⟨_, rfl⟩

/-- The neighbours of the letters, and the last symbol. -/
theorem witness_OtherPressPassesThrough : classify referenceConfig 0x40 = .other ∧
    classify referenceConfig 0x5B = .other ∧ classify referenceConfig 0xFF = .other := by decide

/-- The neighbours of the two designated keys, and the first symbol. -/
theorem witness_OtherReleasePassesThrough : classify referenceConfig 0x81 = .other ∧
    classify referenceConfig 0x07 = .other ∧ classify referenceConfig 0x00 = .other := by decide

/-- One state for each clause. -/
theorem witness_StepRunsTheDecodedInstruction : referenceConfig.WF ∧
    (st referenceConfig 0 0 false true [0x200000000#34]).cmds = [.word 0x200000000#34] ∧
    (Presented.word 0x200000000#34).decode referenceConfig = some .next ∧
    (st referenceConfig 0 0 false true []).cmds = [] := by decide

/-- What is no command: a reserved word, and a symbol one bit too wide. -/
theorem witness_RefusalsAreExactlyTwo : Claims.noCommand referenceConfig (.word 0x200000001#34) ∧
    Claims.noCommand narrow (.word 0x000000120#34) ∧
    Claims.noCommand referenceConfig (.command (.key 256 .press true)) :=
  ⟨.inl (by decide), .inr (by decide), Nat.le_refl 256⟩

/-- A KEY command for the first clause, as a word and, beyond 8 bits, as a command; SEED and NEXT for the second. -/
theorem witness_KeyCommandsLatchRestFirst : referenceConfig.WF ∧
    (Presented.word 0x000000108#34).cmd referenceConfig = some (.key 0x08 .press false) ∧ wide.WF ∧
    (Presented.command (.key 256 .press false)).cmd wide = some (.key 256 .press false) ∧
    (Presented.word 0x100000000#34).cmd referenceConfig = some (.seed 0#32) ∧
    (Presented.word 0x200000000#34).cmd referenceConfig = some .next ∧
    (shows (st referenceConfig 0 0 false true [0x100000000#34])).isSome = true ∧
    (shows (st referenceConfig 0 0 false true [0x200000000#34])).isSome = true := by decide

/-- Both kinds of letter event, and a toggle press. -/
theorem witness_ToggleMachineOnEn : referenceConfig.WF ∧
    (Presented.word 0x000000380#34).decode referenceConfig = some (.togglePress true) ∧
    (Presented.word 0x000000341#34).decode referenceConfig = some (.alphaPress 0 true) ∧
    (Presented.word 0x000000341#34).cmd referenceConfig = some (.key 0x41 .press true) ∧
    (Presented.word 0x00000005A#34).decode referenceConfig = some (.alphaRelease 25 false) := by decide

/-- A step that changes SEED and ROT, one that changes EN and REST, and one with nothing presented. -/
theorem witness_RegistersChangeOnlyByTheirWriters :
    shows (st referenceConfig 0 7 false true [0x200000000#34]) = some (0x00003039, 1, false, true, 0x10800) ∧
    shows (st referenceConfig 0 7 false true [0x000000180#34]) = some (0, 7, true, false, 0x00400) ∧
    refusal (st referenceConfig 0 7 false true []) = none := by decide

/-- A word with a row and a word without one; a command with a row and, its keycode one bit too wide, without one. -/
theorem witness_StepIsTheWholeTable : referenceConfig.WF ∧
    (Claims.stepTable referenceConfig (.word 0x000000341#34) 0 9 true true).isSome = true ∧
    Claims.stepTable referenceConfig (.word 0x000000400#34) 0 9 true true = none ∧
    (st referenceConfig 0 9 true true [0x000000400#34]).cmds = [.word 0x000000400#34] ∧ wide.WF ∧
    Claims.stepTable wide (.command (.key 325 .press true)) 0 9 true true =
      some ⟨0, 9, true, true, true, some (321, true), none⟩ ∧
    Claims.stepTable wide (.command (.key 1024 .press true)) 0 9 true true = none := by decide

/-- Each side of the alternative: a letter with EN = 0; the reseed key with EN = 1. -/
theorem witness_PassThroughIsBitForBit : referenceConfig.WF ∧
    (Presented.word 0x000000341#34).cmd referenceConfig = some (.key 0x41 .press true) ∧
    classify referenceConfig 0x41 ≠ .toggle ∧ (st referenceConfig 0 9 false true [0x000000341#34]).en = false ∧
    (Presented.word 0x000000008#34).cmd referenceConfig = some (.key 0x08 .release false) ∧
    classify referenceConfig 0x08 ≠ .toggle ∧ classify referenceConfig 0x08 ≠ .alpha := by decide

/-- One command of each kind: a seed load, a draw, the toggle key, a letter with EN = 1, another key. -/
theorem witness_OneHostEventPerKeyCommand : referenceConfig.WF ∧
    [0x100000000#34, 0x200000000#34, 0x000000380#34, 0x000000341#34, 0x0000003FF#34].all (fun w =>
      ((Presented.word w).cmd referenceConfig).isSome && (shows (st referenceConfig 0 9 true true [w])).isSome) = true := by
  decide

/-- Two states with the same registers, the second with another response on the port and other words waiting. -/
theorem witness_NoHiddenState :
    (st referenceConfig 1 9 true true [0x000000341#34]).config = referenceConfig ∧
    Claims.sameRegisters (st referenceConfig 1 9 true true [0x000000341#34])
      { st referenceConfig 1 9 true true [0x000000341#34, 0#34] with rsp := some ⟨true, none, none⟩ } ∧
    (shows (st referenceConfig 1 9 true true [0x000000341#34])).isSome = true :=
  ⟨rfl, ⟨rfl, rfl, rfl, rfl⟩, by decide⟩

/-- A draw with EN = 1, and a toggle press. -/
theorem witness_ReseedKeyIgnoresEn : referenceConfig.WF ∧
    (Presented.word 0x000000308#34).cmd referenceConfig = some (.key 0x08 .press true) ∧
    classify referenceConfig 0x08 = .reseed ∧
    (st referenceConfig 1 9 true true [0x000000308#34]).cmds = [.word 0x000000308#34] ∧
    ∃ t, exec (.togglePress true) (st referenceConfig 1 9 true true []) = .next t :=
  ⟨by decide, by decide, by decide, rfl, _, rfl⟩

/-- The last letter pressed and released, in states that differ in SEED and REST. -/
theorem witness_SubstitutionDependsOnEnAndRotOnly : referenceConfig.WF ∧
    (st referenceConfig 1 9 true true [0x00000035A#34]).en = (st referenceConfig 2 9 true false [0x00000005A#34]).en ∧
    (st referenceConfig 1 9 true true [0x00000035A#34]).rot = (st referenceConfig 2 9 true false [0x00000005A#34]).rot ∧
    (Presented.word 0x00000035A#34).cmd referenceConfig = some (.key 0x5A .press true) ∧
    (Presented.word 0x00000005A#34).cmd referenceConfig = some (.key 0x5A .release false) ∧
    classify referenceConfig 0x5A = .alpha := by decide

/-- A run of two commands, and one beyond the end of the stream. -/
theorem witness_ResponsesComeInCommandOrder :
    (∃ t, run 2 (st referenceConfig 1 9 true true [0x000000341#34, 0x000000241#34]) = .next t) ∧
    ∃ t, run 3 (st referenceConfig 1 9 true true [0x000000341#34, 0x000000241#34]) = .next t := ⟨⟨_, rfl⟩, _, rfl⟩

/-- A stream with a word of every format. -/
theorem witness_LegalStreamIsAnsweredToTheEnd :
    (st referenceConfig 1 9 true true [0x100000000#34, 0x200000000#34, 0x0000003FF#34]).config.WF ∧
    ∀ p ∈ (st referenceConfig 1 9 true true [0x100000000#34, 0x200000000#34, 0x0000003FF#34]).cmds,
      ¬ Claims.noCommand referenceConfig p := by
  refine ⟨by decide, fun p hp => ?_⟩
  simp only [st, List.map_cons, List.map_nil, List.mem_cons, List.not_mem_nil, or_false] at hp
  rcases hp with rfl | rfl | rfl <;> (simp only [Claims.noCommand]; decide)

/-- A letter, a draw and a release of the toggle key. -/
theorem witness_KeysPassThroughUntilTheTogglePress : referenceConfig.WF ∧
    (st referenceConfig 1 9 false true [0x000000341#34, 0x200000000#34, 0x000000280#34]).en = false ∧
    (st referenceConfig 1 9 false true [0x000000341#34, 0x200000000#34, 0x000000280#34]).cmds.all (fun p =>
      (p.decode referenceConfig).any fun i => i.commandClass != .toggleP) = true := by decide

/-- Between a press and a release: another letter, a gated reseed event, a seed load, a release of the toggle key. -/
theorem witness_QuietStretchKeepsTheLetter : referenceConfig.WF ∧
    Claims.letterCommand referenceConfig 0 .press true = .word 0x000000341#34 ∧
    Claims.letterCommand referenceConfig 0 .release false = .word 0x000000041#34 ∧
    [Presented.word 0x000000142#34, .word 0x000000108#34, .word 0x100000007#34, .word 0x000000080#34].all
      (Presented.quiet referenceConfig) = true := by decide

/-- Program P3's stretch: A held, and the reseed key pressed and released with a truthful rest bit. -/
theorem witness_TruthfulObserverKeepsTheLetter : referenceConfig.WF ∧
    truthful referenceConfig [] [Claims.letterCommand referenceConfig 0 .press true, .word 0x000000108#34,
      .word 0x000000008#34] = true ∧
    undisturbed referenceConfig (symbolOf referenceConfig 0) [.word 0x000000108#34, .word 0x000000008#34] = true := by
  decide

/-- Two well-formed configurations at the ends of R7's ranges, and the two ends of a rotation of 5 bits, for the statements
whose only hypotheses are these. -/
theorem witness_WellFormedConfigurations :
    (⟨8, 5, 0, 26, 255, 0, false, false⟩ : Config).WF ∧ (⟨8, 5, 230, 229, 0, 25, true, true⟩ : Config).WF ∧
    0 ≤ 31 ∧ 31 ≤ 31 := by decide

/-- A letter's keycode, for the second clause. -/
theorem witness_SubstitutionIsABijectionOfLetters : referenceConfig.WF ∧ classify referenceConfig 0x5A = .alpha ∧
    symbolOf referenceConfig (rotn 25 9) = symbolOf referenceConfig (rotn 25 9) := by decide

/-- A state with ROT at its bound and a response given. -/
theorem witness_StepKeepsTheInvariant :
    StateInv { st referenceConfig 1 25 true true [0x000000341#34] with
      rsp := some ⟨true, none, none⟩, rsps := [⟨true, none, none⟩] } ∧
    (shows (st referenceConfig 1 25 true true [0x000000341#34])).isSome = true := by decide

/-- A rotation in range, a draw from a rotation out of range, and a draw from 0. -/
theorem witness_DrawnRotationStaysFrom1To25 :
    (1 ≤ (st referenceConfig 0 25 true true [0x000000341#34]).rot ∧
      (st referenceConfig 0 25 true true [0x000000341#34]).rot ≤ 25) ∧
    shows (st referenceConfig 0 25 true true [0x000000341#34]) = some (0, 25, true, true, 0x0074D) ∧
    (Presented.word 0x200000000#34).decode referenceConfig = some .next ∧ Instr.next.draws referenceConfig = true ∧
    shows (st referenceConfig 0 0 true true [0x200000000#34]) = some (0x00003039, 1, true, true, 0x10800) := by decide

/-- The reset state, and the state after one draw. -/
theorem witness_ReachableStatesSatisfyTheInvariant : Reachable State.reset ∧ ∃ s, Reachable s ∧ s.rsps ≠ [] :=
  ⟨⟨referenceConfig, [], 0, by decide, rfl⟩, _, ⟨referenceConfig, [.word 0x200000000#34], 1, by decide, rfl⟩, by decide⟩

end Sys2Proof.Tests
end

section
/-! PROOFS. The refusals of a step, said once, and the scope statement of R7. -/

namespace Sys2Proof

open Sys2Proof.Machine

/-- No instruction faults or is refused: the core has no condition that stops it (R184). -/
theorem exec_next (i : Instr) (s : State) : ∃ t, exec i s = .next t := by
  cases i <;> exact ⟨_, rfl⟩

/-- With nothing presented, a step under a well-formed configuration idles (R183). -/
theorem step_nil {s : State} (h : s.config.WF) (hc : s.cmds = []) : step s = .next s := by
  simp only [step, if_pos h, fetch_nil hc, State.idle]

/-- A step under an ill-formed configuration is refused, whatever is presented (R7). -/
theorem step_of_not_wf {s : State} (h : ¬ s.config.WF) : step s = .refused .illFormedConfiguration :=
  if_neg h

/-- Everything a refused step can have met: an ill-formed configuration, or an item that is no command (R184). -/
theorem step_refused_cases {s : State} {r : Refusal} (h : step s = .refused r) :
    (¬ s.config.WF ∧ r = .illFormedConfiguration) ∨
      (s.config.WF ∧ ∃ p ps, s.cmds = p :: ps ∧ p.decode s.config = none ∧ r = .reservedWord p) := by
  by_cases hwf : s.config.WF
  · refine .inr ⟨hwf, ?_⟩
    cases hc : s.cmds with
    | nil => simp [step_nil hwf hc] at h
    | cons p ps =>
      rw [step_cons hwf hc] at h
      cases hd : p.decode s.config with
      | none => exact ⟨p, ps, rfl, hd, by simpa [hd] using h.symm⟩
      | some i =>
        obtain ⟨t, ht⟩ := exec_next i { s with cmds := ps }
        simp [hd, ht] at h
  · rw [step_of_not_wf hwf] at h
    exact .inl ⟨hwf, by simpa using h.symm⟩

/-- A step is refused as ill-formed exactly under a configuration that is not well-formed: a reserved word is refused for
another reason. -/
theorem step_illFormedConfiguration_iff (s : State) :
    step s = .refused .illFormedConfiguration ↔ ¬ s.config.WF := by
  refine ⟨fun h => ?_, step_of_not_wf⟩
  obtain ⟨hwf, -⟩ | ⟨-, p, ps, -, -, hr⟩ := step_refused_cases h
  · exact hwf
  · cases hr

/-- R7's conditions with "not one of the letters" as lying below KC_A or above KC_A + 25. -/
theorem Config.wf_iff_outside_letters (c : Config) : c.WF ↔
    (c.kcA + 25 < 2 ^ c.symW ∧ c.kcToggle < 2 ^ c.symW ∧ c.kcReseed < 2 ^ c.symW ∧ c.kcToggle ≠ c.kcReseed ∧
      (c.kcToggle < c.kcA ∨ c.kcA + 25 < c.kcToggle) ∧ (c.kcReseed < c.kcA ∨ c.kcA + 25 < c.kcReseed) ∧
      c.rotReset ≤ 25 ∧ c.rotW ≥ 5) := by
  have outside (x : Nat) : ¬ (c.kcA ≤ x ∧ x ≤ c.kcA + 25) ↔ (x < c.kcA ∨ c.kcA + 25 < x) := by omega
  rw [Config.wf_iff, outside, outside]

/-- Settles O12: R7's lines by the check's own lemma, the refusal by the cases of a refused step. -/
theorem illFormedConfigurationIsRefused : Obligations.IllFormedConfigurationIsRefused :=
  ⟨Config.wf_iff_outside_letters, step_illFormedConfiguration_iff⟩

end Sys2Proof
end

section
/-! PROOFS. EN and the host-visible stream, said once for each operation, and the reset and status statements of
10_state.md (R31 to R34, R36). -/

namespace Sys2Proof

open Sys2Proof.Machine

/-! ### The host-visible stream under each operation (R133) -/

namespace Machine

@[simp] theorem State.latchRest_hostStream (b : Bool) (s : State) : (s.latchRest b).hostStream = s.hostStream := rfl
@[simp] theorem State.flipEn_hostStream (s : State) : s.flipEn.hostStream = s.hostStream := rfl
@[simp] theorem State.loadSeed_hostStream (v : SeedWord) (s : State) : (s.loadSeed v).hostStream = s.hostStream := rfl
@[simp] theorem State.draw_hostStream (s : State) : s.draw.hostStream = s.hostStream := rfl

/-- A reseed key event is forwarded unchanged, whether or not it draws (R126, R127). -/
@[simp] theorem State.reseedEvent_hostStream (e : Bool) (a : Action) (s : State) :
    (s.reseedEvent e a).hostStream = s.hostStream ++ [⟨s.config.kcReseed, a⟩] := by
  unfold State.reseedEvent
  split <;> simp

/-- With EN = 0 a letter event only answers, with the letter's own keycode (R124, R125). -/
theorem State.letterEvent_of_off {s : State} (hen : s.en = false) (l : Letter) (a : Action) :
    s.letterEvent l a = s.respond false (some ⟨symbolOf s.config l, a⟩) none := by
  simp [State.letterEvent, hen]

end Machine

/-! ### EN -/

/-- EN has one writer: a press of the toggle key flips it, and no other instruction touches it (R23, R121, R122). -/
theorem exec_en {i : Instr} {s t : State} (h : exec i s = .next t) :
    t.en = if i.commandClass = .toggleP then !s.en else s.en := by
  cases i <;> cases h <;> simp [Instr.commandClass]

/-! ### The step that accepts a legal item -/

/-- A step that accepts a legal item runs its instruction on the rest of the stream. -/
theorem step_of_decode {s : State} {p : Presented} {ps : List Presented} {i : Instr} (hwf : s.config.WF)
    (hc : s.cmds = p :: ps) (hd : p.decode s.config = some i) : step s = exec i { s with cmds := ps } := by
  rw [step_cons hwf hc, hd]

/-! ### Pass-through while EN = 0 (R33) -/

/-- What a command hands the host while EN = 0: its own event, unless that is the toggle key's. -/
def Cmd.plainEvent (c : Config) (cmd : Cmd) : Option KeyEvent :=
  (Claims.originalEvent cmd).filter fun e => classify c e.symbol != .toggle

theorem plainEvent_key_toggle {c : Config} {x : Nat} (hx : classify c x = .toggle) (a : Action) (b : Bool) :
    Cmd.plainEvent c (.key x a b) = none := by
  simp [Cmd.plainEvent, Claims.originalEvent, hx]

theorem plainEvent_key_of_ne_toggle {c : Config} {x : Nat} (hx : classify c x ≠ .toggle) (a : Action) (b : Bool) :
    Cmd.plainEvent c (.key x a b) = some ⟨x, a⟩ := by
  simp [Cmd.plainEvent, Claims.originalEvent, hx]

/-- What an item on the channel hands the host while EN = 0. -/
def Presented.plainEvent (c : Config) (p : Presented) : Option KeyEvent :=
  ((p.cmd c).bind Claims.originalEvent).filter fun e => classify c e.symbol != .toggle

theorem plainEvent_of_cmd {c : Config} {p : Presented} {cmd : Cmd} (h : p.cmd c = some cmd) :
    p.plainEvent c = cmd.plainEvent c := by
  simp [Presented.plainEvent, Cmd.plainEvent, h]

/-- The meaning of a key event, once it is dispatched by its class, hands the host the event itself while EN = 0. -/
theorem exec_dispatchKey_hostStream_of_off {x : Nat} {a : Action} {b : Bool} {s t : State} (hwf : s.config.WF)
    (hen : s.en = false) (h : exec (dispatchKey s.config x a b) s = .next t) :
    t.hostStream = s.hostStream ++ (Cmd.plainEvent s.config (.key x a b)).toList := by
  cases hx : classify s.config x with
  | toggle =>
    rw [dispatchKey_toggle hx] at h
    rw [plainEvent_key_toggle hx]
    cases a <;> cases h <;> simp
  | reseed =>
    rw [dispatchKey_reseed hx] at h
    rw [plainEvent_key_of_ne_toggle (by simp [hx]), eq_of_classify_reseed hx]
    cases a <;> cases h <;> simp
  | alpha =>
    rw [dispatchKey_alpha hx] at h
    rw [plainEvent_key_of_ne_toggle (by simp [hx])]
    cases a <;> cases h <;> simp [State.letterEvent_of_off, hen, symbolOf_indexOf hwf]
  | other =>
    rw [dispatchKey_other hx] at h
    rw [plainEvent_key_of_ne_toggle (by simp [hx])]
    cases a <;> cases h <;> simp

/-- What `exec_dispatchKey_hostStream_of_off` says, for every command: SEED and NEXT hand the host nothing. -/
theorem exec_toInstr_hostStream_of_off {cmd : Cmd} {s t : State} (hwf : s.config.WF) (hen : s.en = false)
    (h : exec (cmd.toInstr s.config) s = .next t) :
    t.hostStream = s.hostStream ++ (cmd.plainEvent s.config).toList := by
  cases cmd with
  | seed v => cases h; simp [Cmd.plainEvent, Claims.originalEvent]
  | next => cases h; simp [Cmd.plainEvent, Claims.originalEvent]
  | key x a b => exact exec_dispatchKey_hostStream_of_off hwf hen h

/-- One step with EN = 0 on a legal command that is no press of the toggle key: it succeeds, EN stays 0, and the host gets
the command's own event. -/
theorem step_of_off {s : State} {p : Presented} {ps : List Presented} {i : Instr} (hwf : s.config.WF)
    (hen : s.en = false) (hc : s.cmds = p :: ps) (hd : p.decode s.config = some i) (hi : i.commandClass ≠ .toggleP) :
    ∃ t, step s = .next t ∧ t.config = s.config ∧ t.cmds = ps ∧ t.en = false ∧
      t.hostStream = s.hostStream ++ (p.plainEvent s.config).toList := by
  obtain ⟨cmd, hcmd, rfl⟩ := decode_eq_some hd
  obtain ⟨t, ht⟩ := exec_next (cmd.toInstr s.config) { s with cmds := ps }
  obtain ⟨hconfig, hcmds, -⟩ := exec_frame ht
  have hstep : step s = .next t := (step_of_decode hwf hc hd).trans ht
  have hoff : t.en = false := by rw [exec_en ht, if_neg hi, hen]
  have hhost := exec_toInstr_hostStream_of_off (s := { s with cmds := ps }) hwf hen ht
  exact ⟨t, hstep, hconfig, hcmds, hoff, by rw [plainEvent_of_cmd hcmd]; exact hhost⟩

/-- A run with EN = 0 over legal commands without a press of the toggle key, by induction on the stream. -/
theorem run_of_off {ps : List Presented} {s : State} (hwf : s.config.WF) (hen : s.en = false) (hc : s.cmds = ps)
    (hlegal : ∀ p ∈ ps, ∃ i, p.decode s.config = some i ∧ i.commandClass ≠ .toggleP) :
    ∃ t, run ps.length s = .next t ∧ t.en = false ∧
      t.hostStream = s.hostStream ++ ps.filterMap fun p => p.plainEvent s.config := by
  induction ps generalizing s with
  | nil => exact ⟨s, run_zero s, hen, by simp⟩
  | cons p ps ih =>
    obtain ⟨⟨i, hd, hi⟩, hrest⟩ := List.forall_mem_cons.mp hlegal
    obtain ⟨u, hstep, hconfig, hcmds, hoff, hhost⟩ := step_of_off hwf hen hc hd hi
    rw [← hconfig] at hwf hrest
    obtain ⟨t, hrun, hten, hstream⟩ := ih hwf hoff hcmds hrest
    refine ⟨t, by rw [List.length_cons, run_succ, hstep]; exact hrun, hten, ?_⟩
    rw [hstream, hhost, hconfig, List.append_assoc]
    cases hev : p.plainEvent s.config <;> simp [hev]

/-- Settles O44: the run from a state with EN = 0, the events of the stream being `Presented.plainEvent` of each item. -/
theorem keysPassThroughUntilTheTogglePress : Obligations.KeysPassThroughUntilTheTogglePress :=
  ⟨fun _ => rfl, fun _ hwf hen hlegal => run_of_off hwf hen rfl hlegal⟩

/-! ### Reset and the status outputs -/

/-- Settles O52: the fields of the reset state, with R7's bound on ROT_RESET. -/
theorem resetValues : Obligations.ResetValues := by
  refine ⟨fun c hwf => ?_, fun _ => rfl⟩
  obtain ⟨-, -, -, -, -, -, hrot, -⟩ := Config.wf_iff.mp hwf
  exact ⟨rfl, rfl, rfl, hrot, lt_rotW hwf hrot, rfl, rfl, rfl⟩

/-- The bit that shows a flag is 1 exactly when the flag is set. -/
theorem ofBool_eq_one_iff (b : Bool) : BitVec.ofBool b = 1#1 ↔ b = true := by
  cases b <;> decide

/-- Settles O55: SEED and ROT are shown as they are, EN and REST as one bit each. -/
theorem statusOutputsShowTheRegisters : Obligations.StatusOutputsShowTheRegisters :=
  fun s => ⟨rfl, rfl, ofBool_eq_one_iff s.en, ofBool_eq_one_iff s.rest⟩

end Sys2Proof
end

section
/-! PROOFS. What a step and a run add to the responses received and take from the stream, said once, and the order of the
responses (20_memory.md rule R56). -/

namespace Sys2Proof

open Sys2Proof.Machine

/-! ### Runs, one step at a time -/

/-- A run that reaches a next state has taken its first step to a state from which the rest of it runs. -/
theorem run_succ_next_iff {k : Nat} {s s' : State} :
    run (k + 1) s = .next s' ↔ ∃ u, step s = .next u ∧ run k u = .next s' := by
  rw [run_succ]
  cases step s <;> simp

/-- A run one step longer takes that step on the state the run before it left. -/
theorem run_succ_of_run_next {k : Nat} {s s' : State} (h : run k s = .next s') : run (k + 1) s = step s' := by
  induction k generalizing s with
  | zero =>
    cases h
    rw [run_succ]
    cases step s' <;> rfl
  | succ k ih =>
    obtain ⟨u, hstep, hrun⟩ := run_succ_next_iff.mp h
    rw [run_succ, hstep]
    exact ih hrun

/-! ### One response for each item taken (R56) -/

/-- A step with a next state either idles, with nothing presented, or takes the first item and gives one response. -/
theorem step_next_answers {s s' : State} (h : step s = .next s') :
    (s.cmds = [] ∧ s' = s) ∨ ∃ p r, s.cmds = p :: s'.cmds ∧ s'.rsps = s.rsps ++ [r] := by
  obtain ⟨-, hidle | ⟨p, ps, i, hc, -, hexec⟩⟩ := step_next_cases h
  · exact .inl hidle
  · obtain ⟨-, hcmds, r, -, hrsps⟩ := exec_frame hexec
    exact .inr ⟨p, r, by rw [hc, hcmds], hrsps⟩

/-- A run of `k` steps takes items `done` off the front of the stream and gives as many responses, one a step until the
stream is empty. -/
theorem run_next_answers {k : Nat} {s s' : State} (h : run k s = .next s') :
    ∃ (done : List Presented) (new : List Rsp), s.cmds = done ++ s'.cmds ∧ s'.rsps = s.rsps ++ new ∧
      done.length = new.length ∧ new.length = min k s.cmds.length := by
  induction k generalizing s with
  | zero =>
    cases h
    exact ⟨[], [], by simp⟩
  | succ k ih =>
    obtain ⟨u, hstep, hrun⟩ := run_succ_next_iff.mp h
    obtain ⟨done, new, hcmds, hrsps, hlen, hmin⟩ := ih hrun
    obtain ⟨hnil, rfl⟩ | ⟨p, r, hc, hr⟩ := step_next_answers hstep
    · exact ⟨done, new, hcmds, hrsps, hlen, by simpa [hnil] using hmin⟩
    · refine ⟨p :: done, r :: new, by simp [hc, hcmds], by simp [hrsps, hr], by simp [hlen], ?_⟩
      rw [hc, List.length_cons, List.length_cons, hmin, Nat.succ_min_succ]

/-- The host sees the events that new responses forward after those it has seen, in the order of the responses (R133). -/
theorem hostStream_of_rsps_append {s s' : State} {new : List Rsp} (h : s'.rsps = s.rsps ++ new) :
    s'.hostStream = s.hostStream ++ new.filterMap (·.fwd) := by
  rw [State.hostStream, h, List.filterMap_append, State.hostStream]

/-- Settles O42: the items a run takes are the first ones of the stream, as many as it gives responses; one more step is a
step of the state the run left. -/
theorem responsesComeInCommandOrder : Obligations.ResponsesComeInCommandOrder := by
  intro k s s' hrun
  obtain ⟨done, new, hcmds, hrsps, hlen, hmin⟩ := run_next_answers hrun
  have hdone : s.cmds.take new.length = done := by rw [hcmds, List.take_left' hlen]
  exact ⟨⟨new, hrsps, hmin, by rw [hdone, hcmds], hostStream_of_rsps_append hrsps⟩, run_succ_of_run_next hrun⟩

end Sys2Proof
end

section
/-! PROOFS. The four classes of a key event and the letter conversions (30_encoding.md R75, R77). -/

namespace Sys2Proof

open Sys2Proof.Machine

namespace Machine

/-- The reseed key is the only symbol of its class: the test for the toggle key, which comes first, cannot take it. -/
theorem classify_eq_reseed {c : Config} (h : c.WF) {x : Nat} : classify c x = .reseed ↔ x = c.kcReseed :=
  ⟨eq_of_classify_reseed, fun hx => hx ▸ classify_reseedKey h⟩

/-- The letters are the 26 keycodes from KC_A on: neither designated key is among them. -/
theorem classify_eq_alpha {c : Config} (h : c.WF) {x : Nat} :
    classify c x = .alpha ↔ c.kcA ≤ x ∧ x ≤ c.kcA + 25 := by
  refine ⟨alpha_bounds, fun ⟨hlo, hhi⟩ => ?_⟩
  have hx : symbolOf c ⟨x - c.kcA, by omega⟩ = x := (symbolOf_eq h _).trans (Nat.add_sub_cancel' hlo)
  exact hx ▸ classify_symbolOf h _

/-- The class OTHER is what no other class takes, under any configuration. -/
theorem classify_eq_other {c : Config} {x : Nat} : classify c x = .other ↔
    x ≠ c.kcToggle ∧ x ≠ c.kcReseed ∧ ¬ (c.kcA ≤ x ∧ x ≤ c.kcA + 25) := by
  unfold classify
  split_ifs <;> simp_all

end Machine

theorem referenceConfig_wf : referenceConfig.WF := by decide

/-- Of the 256 symbols of the reference configuration, 228 are left when the designated keys and the letters are taken. -/
theorem count_classify_other_reference :
    ((List.range 256).filter fun n => classify referenceConfig n == .other).length = 228 := by
  rfl

/-- Settles O5: one lemma a class; the counts are those of the reference keycodes. -/
theorem classifyByConditionNotByOrder : Obligations.ClassifyByConditionNotByOrder :=
  ⟨fun _ _ h => ⟨classify_eq_toggle, classify_eq_reseed h, classify_eq_alpha h, classify_eq_other⟩,
    classify_toggleKey referenceConfig, classify_reseedKey referenceConfig_wf,
    fun _ hlo hhi => (classify_eq_alpha referenceConfig_wf).mpr ⟨hlo, hhi⟩, count_classify_other_reference⟩

/-- Settles O6: the sum of R77 stays in SYM_W bits and is a letter's keycode, so each conversion undoes the other. -/
theorem letterConversionsAreInverse : Obligations.LetterConversionsAreInverse := fun c h =>
  ⟨fun _ hx => ⟨rfl, (alpha_bounds hx).1, symbolOf_indexOf h hx⟩,
    fun l => ⟨symbolOf_eq h l, symbolOf_lt c l, classify_symbolOf h l, indexOf_symbolOf h l _⟩⟩

end Sys2Proof
end

section
/-! PROOFS. What a word decodes to, from its number alone: operands and reserved words (30_encoding.md R79, R80). -/

namespace Sys2Proof

open Sys2Proof.Machine

/-! ### The fields of a word as conditions on its number -/

theorem CmdWord.op_eq_iff {w : CmdWord} {k : BitVec 2} : w.op = k ↔ w.toNat / 2 ^ 32 = k.toNat := by
  rw [← BitVec.toNat_inj, CmdWord.op_toNat]

/-- R79's three forms of a reserved word. -/
theorem CmdWord.reserved_iff {w : CmdWord} : w.reserved = true ↔
    (w.toNat / 2 ^ 32 = 3 ∨ (w.toNat / 2 ^ 32 = 0 ∧ w.toNat / 2 ^ 10 % 2 ^ 22 ≠ 0) ∨
      (w.toNat / 2 ^ 32 = 2 ∧ w.toNat % 2 ^ 32 ≠ 0)) := by
  simp only [CmdWord.reserved, Bool.or_eq_true, Bool.and_eq_true, beq_iff_eq, bne_iff_ne, ne_eq, or_assoc,
    ← BitVec.toNat_inj, CmdWord.op_toNat, CmdWord.reservedBits_toNat, CmdWord.payload_toNat]
  rfl

/-! ### Operands (R80) -/

/-- A seed operand is the non-negative remainder. -/
theorem seedOperand_toNat (v : Int) : ((seedOperand v).toNat : Int) = v % 4294967296 := by
  have h : 0 ≤ v % 4294967296 := Int.emod_nonneg v (by decide)
  simpa [seedOperand, BitVec.toNat_ofInt] using h

/-- A SEED word decodes under every configuration, to its low 32 bits. -/
theorem decode_seedWord (c : Config) {w : CmdWord} (h : w.op = 1#2) : decode c w = some (.seed w.payload) :=
  decode_of_cmd (cmd_word.mpr ⟨decodeCmd_seed h, rfl⟩)

theorem CmdWord.payload_eq_ofNat (w : CmdWord) : w.payload = BitVec.ofNat 32 (w.toNat % 2 ^ 32) := by
  apply BitVec.eq_of_toNat_eq
  rw [CmdWord.payload_toNat, BitVec.toNat_ofNat, Nat.mod_mod]

theorem actionOfBit_eq_press {b : Bool} : actionOfBit b = .press ↔ b = true := by cases b <;> decide

/-- The operands of a KEY word are its low ten bits. -/
theorem key_operands {w : CmdWord} {x : Nat} {a : Action} {b : Bool} (h : decodeCmd w = some (.key x a b)) :
    x = w.toNat % 2 ^ 8 ∧ (a = .press ↔ w.toNat / 2 ^ 8 % 2 = 1) ∧ (b = true ↔ w.toNat / 2 ^ 9 % 2 = 1) := by
  obtain ⟨-, hkey⟩ | ⟨-, -, hkey⟩ | ⟨-, -, hkey⟩ := decodeCmd_cases h
  · cases hkey
  · cases hkey
  · cases hkey
    simp [CmdWord.symbol_toNat, actionOfBit_eq_press, CmdWord.actionBit_eq, CmdWord.restBit_eq]

/-- Settles O7: each operand is read off the word's fields as numbers. -/
theorem operandsAreUsedAsTheyStand : Obligations.OperandsAreUsedAsTheyStand :=
  ⟨seedOperand_toNat, by decide,
    fun c w hop => w.payload_eq_ofNat ▸ decode_seedWord c (CmdWord.op_eq_iff.mpr hop),
    fun _ _ _ _ => key_operands⟩

/-! ### Symbols of at least eight bits -/

/-- With SYM_W >= 8 every command a word decodes to is one of the configuration. -/
theorem fits_of_decodeCmd {c : Config} (h8 : 8 ≤ c.symW) {w : CmdWord} {cmd : Cmd} (h : decodeCmd w = some cmd) :
    cmd.fits c = true := by
  obtain ⟨-, rfl⟩ | ⟨-, -, rfl⟩ | ⟨-, -, rfl⟩ := decodeCmd_cases h
  · rfl
  · rfl
  · exact decide_eq_true (lt_symW_of_word h8 w.symbol.isLt)

/-- With SYM_W >= 8 the decoder answers the instruction of the word's command, and refuses nothing more (R86). -/
theorem decode_eq_map {c : Config} (h8 : 8 ≤ c.symW) (w : CmdWord) :
    decode c w = (decodeCmd w).map (Cmd.toInstr c) := by
  have hfits : (Presented.word w).cmd c = decodeCmd w := by
    ext cmd
    rw [cmd_word]
    exact and_iff_left_of_imp (fits_of_decodeCmd h8)
  rw [decode, Presented.decode, hfits]

/-- With SYM_W >= 8 the decoder refuses exactly the reserved words (R79, R86). -/
theorem decode_eq_none_iff_reserved {c : Config} (h8 : 8 ≤ c.symW) {w : CmdWord} :
    decode c w = none ↔ w.reserved = true := by
  rw [decode_eq_map h8, Option.map_eq_none_iff, reserved_iff_decodeCmd]

/-! ### The step that meets a word (R79) -/

/-- The step refuses the item presented by name exactly when it is no command, and accepts every other item. -/
theorem step_of_presented {s : State} {p : Presented} {ps : List Presented} (hwf : s.config.WF) (hc : s.cmds = p :: ps) :
    (step s = .refused (.reservedWord p) ↔ p.decode s.config = none) ∧
      (p.decode s.config ≠ none → ∃ s', step s = .next s') := by
  rw [step_cons hwf hc]
  cases hd : p.decode s.config with
  | none => simp
  | some i =>
    obtain ⟨t, ht⟩ := exec_next i { s with cmds := ps }
    simp [ht]

/-- A KEY word of eight symbol bits decodes to the instruction its symbol's class dispatches, whatever its rest bit. -/
theorem decode_keyWord {c : Config} (h8 : 8 ≤ c.symW) {x : Nat} (hx : x < 2 ^ 8) (a : Action) (b : Bool) :
    decode c (keyWord x a b) = some (dispatchKey c x a b) :=
  decode_encodeCmd (cmd := .key x a b) (decide_eq_true (lt_symW_of_word h8 hx)) (decide_eq_true hx)

/-- The KEY words as sums (R72): a press has bit 8 set, rest = 1 has bit 9 set. -/
theorem keyWord_press (x : Nat) (b : Bool) : keyWord x .press b = BitVec.ofNat 34 (0x100 + x + 0x200 * b.toNat) :=
  congrArg (BitVec.ofNat 34) (by simp only [actionBit, Bool.toNat_true]; omega)

theorem keyWord_release (x : Nat) (b : Bool) : keyWord x .release b = BitVec.ofNat 34 (x + 0x200 * b.toNat) :=
  congrArg (BitVec.ofNat 34) (by simp only [actionBit, Bool.toNat_false]; omega)

/-- Settles O3: the decoder's refusals as R79's numbers, the step by `step_of_presented`, and a KEY word as the sum of its
fields. -/
theorem reservedWordsAreRefused : Obligations.ReservedWordsAreRefused := by
  intro c h8
  refine ⟨fun w => ⟨(decode_eq_none_iff_reserved h8).trans CmdWord.reserved_iff, ?_⟩, fun x b hx hcls => ?_⟩
  · rintro s ps rfl hwf hc
    exact step_of_presented hwf hc
  · rw [← keyWord_press, ← keyWord_release, decode_keyWord h8 hx, decode_keyWord h8 hx, dispatchKey_other hcls,
      dispatchKey_other hcls]
    exact ⟨rfl, rfl⟩

end Sys2Proof
end

section
/-! PROOFS. The opcode map (30_encoding.md R83): what a row's mask and pattern say of a word's fields, what class the
decoder gives a word, and that the two agree row by row. -/

namespace Sys2Proof

open Sys2Proof.Machine

/-! ### Masks, field by field -/

/-- A mask and pattern test is one test a field. -/
theorem CmdWord.and_eq_iff_fields {w m p : CmdWord} : w &&& m = p ↔ w.op &&& m.op = p.op ∧
    w.reservedBits &&& m.reservedBits = p.reservedBits ∧ (w.restBit && m.restBit) = p.restBit ∧
    (w.actionBit && m.actionBit) = p.actionBit ∧ w.symbol &&& m.symbol = p.symbol := by
  rw [CmdWord.eq_iff_fields]
  simp only [CmdWord.op, CmdWord.reservedBits, CmdWord.restBit, CmdWord.actionBit, CmdWord.symbol,
    BitVec.extractLsb'_and, BitVec.getLsbD_and]

/-- The mask of the SEED row looks at `op` alone. -/
theorem seedMask_iff {w : CmdWord} : w &&& 0x300000000#34 = 0x100000000#34 ↔ w.op = 1#2 := by
  have hm : CmdWord.op 0x300000000#34 = BitVec.allOnes 2 ∧ CmdWord.reservedBits 0x300000000#34 = 0#22 ∧
      CmdWord.restBit 0x300000000#34 = false ∧ CmdWord.actionBit 0x300000000#34 = false ∧
      CmdWord.symbol 0x300000000#34 = 0#8 := by decide
  have hp : CmdWord.op 0x100000000#34 = 1#2 ∧ CmdWord.reservedBits 0x100000000#34 = 0#22 ∧
      CmdWord.restBit 0x100000000#34 = false ∧ CmdWord.actionBit 0x100000000#34 = false ∧
      CmdWord.symbol 0x100000000#34 = 0#8 := by decide
  simp only [CmdWord.and_eq_iff_fields, hm, hp, BitVec.and_allOnes, BitVec.and_zero, Bool.and_false, and_true]

/-- The mask of the NEXT row is the whole word. -/
theorem nextMask_iff {w : CmdWord} : w &&& 0x3FFFFFFFF#34 = 0x200000000#34 ↔ w.op = 2#2 ∧ w.payload = 0#32 := by
  rw [show (0x3FFFFFFFF#34 : CmdWord) = BitVec.allOnes 34 from rfl, BitVec.and_allOnes, ← BitVec.toNat_inj,
    CmdWord.op_eq_iff, ← BitVec.toNat_inj, CmdWord.payload_toNat]
  simp only [BitVec.toNat_ofNat]
  omega

/-- The mask of a designated key's rows looks at every bit but the rest bit. -/
theorem keyMask_iff {w : CmdWord} {x : Nat} (hx : x < 2 ^ 8) (a : Action) : w &&& 0x3FFFFFDFF#34 = keyWord x a false ↔
    w.op = 0#2 ∧ w.reservedBits = 0#22 ∧ w.actionBit = actionBit a ∧ w.symbol.toNat = x := by
  have hm : CmdWord.op 0x3FFFFFDFF#34 = BitVec.allOnes 2 ∧ CmdWord.reservedBits 0x3FFFFFDFF#34 = BitVec.allOnes 22 ∧
      CmdWord.restBit 0x3FFFFFDFF#34 = false ∧ CmdWord.actionBit 0x3FFFFFDFF#34 = true ∧
      CmdWord.symbol 0x3FFFFFDFF#34 = BitVec.allOnes 8 := by decide
  have hsym : w.symbol = (keyWord x a false).symbol ↔ w.symbol.toNat = x := by
    rw [← BitVec.toNat_inj, (keyWord_fields hx a false).2.2.2.2]
  obtain ⟨hop, hres, hrest, hact, -⟩ := keyWord_fields hx a false
  simp only [CmdWord.and_eq_iff_fields, hm, hop, hres, hrest, hact, hsym, BitVec.and_allOnes, Bool.and_false, Bool.and_true,
    true_and]

/-- The mask of the ALPHA and OTHER rows leaves the symbol out too. -/
theorem edgeMask_iff {w : CmdWord} (a : Action) : w &&& 0x3FFFFFD00#34 = keyWord 0 a false ↔
    w.op = 0#2 ∧ w.reservedBits = 0#22 ∧ w.actionBit = actionBit a := by
  have hm : CmdWord.op 0x3FFFFFD00#34 = BitVec.allOnes 2 ∧ CmdWord.reservedBits 0x3FFFFFD00#34 = BitVec.allOnes 22 ∧
      CmdWord.restBit 0x3FFFFFD00#34 = false ∧ CmdWord.actionBit 0x3FFFFFD00#34 = true ∧
      CmdWord.symbol 0x3FFFFFD00#34 = 0#8 := by decide
  obtain ⟨hop, hres, hrest, hact, hsym⟩ := keyWord_fields (x := 0) (by decide) a false
  have hsym : (keyWord 0 a false).symbol = 0#8 := BitVec.eq_of_toNat_eq hsym
  simp only [CmdWord.and_eq_iff_fields, hm, hop, hres, hrest, hact, hsym, BitVec.and_allOnes, BitVec.and_zero,
    Bool.and_false, Bool.and_true, true_and, and_true]

/-! ### The class the decoder gives a word -/

/-- The command class of a key event, by its key class and its action (R70). -/
def keyCommandClass : KeyClass → Action → CommandClass
  | .toggle, .press => .toggleP
  | .toggle, .release => .toggleR
  | .reseed, .press => .reseedP
  | .reseed, .release => .reseedR
  | .alpha, .press => .alphaP
  | .alpha, .release => .alphaR
  | .other, .press => .otherP
  | .other, .release => .otherR

theorem keyCommandClass_inj {k k' : KeyClass} {a a' : Action} :
    keyCommandClass k a = keyCommandClass k' a' ↔ k = k' ∧ a = a' := by
  cases k <;> cases a <;> cases k' <;> cases a' <;> decide

theorem keyCommandClass_ne (k : KeyClass) (a : Action) : keyCommandClass k a ≠ .seed ∧ keyCommandClass k a ≠ .next := by
  cases k <;> cases a <;> decide

/-- The dispatch gives a key event an instruction of its class. -/
theorem commandClass_dispatchKey (c : Config) (x : Nat) (a : Action) (b : Bool) :
    (dispatchKey c x a b).commandClass = keyCommandClass (classify c x) a := by
  cases hx : classify c x with
  | toggle => rw [dispatchKey_toggle hx]; cases a <;> rfl
  | reseed => rw [dispatchKey_reseed hx]; cases a <;> rfl
  | alpha => rw [dispatchKey_alpha hx]; cases a <;> rfl
  | other => rw [dispatchKey_other hx]; cases a <;> rfl

/-- The class the decoder gives a word, none for a reserved word. -/
def decodedClass (c : Config) (w : CmdWord) : Option CommandClass := (decode c w).map Instr.commandClass

section
variable {c : Config} (h8 : 8 ≤ c.symW) {w : CmdWord}
include h8

/-- With SYM_W >= 8 a word has a class exactly when it decodes to a command of that class. -/
theorem decodedClass_eq_some {cls : CommandClass} : decodedClass c w = some cls ↔
    ∃ cmd, decodeCmd w = some cmd ∧ (cmd.toInstr c).commandClass = cls := by
  simp [decodedClass, decode_eq_map h8]

theorem decodedClass_eq_seed : decodedClass c w = some .seed ↔ w.op = 1#2 := by
  rw [decodedClass_eq_some h8]
  constructor
  · rintro ⟨cmd, hcmd, hcls⟩
    obtain ⟨hop, rfl⟩ | ⟨-, -, rfl⟩ | ⟨-, -, rfl⟩ := decodeCmd_cases hcmd
    · exact hop
    · cases hcls
    · exact absurd ((commandClass_dispatchKey ..).symm.trans hcls) (keyCommandClass_ne _ _).1
  · exact fun hop => ⟨_, decodeCmd_seed hop, rfl⟩

theorem decodedClass_eq_next : decodedClass c w = some .next ↔ w.op = 2#2 ∧ w.payload = 0#32 := by
  rw [decodedClass_eq_some h8]
  constructor
  · rintro ⟨cmd, hcmd, hcls⟩
    obtain ⟨-, rfl⟩ | ⟨hop, hpay, rfl⟩ | ⟨-, -, rfl⟩ := decodeCmd_cases hcmd
    · cases hcls
    · exact ⟨hop, hpay⟩
    · exact absurd ((commandClass_dispatchKey ..).symm.trans hcls) (keyCommandClass_ne _ _).2
  · exact fun ⟨hop, hpay⟩ => ⟨.next, by simp [decodeCmd, hop, hpay], rfl⟩

/-- A word has the class of a key event exactly when it is a KEY word of that action whose symbol is of that class. -/
theorem decodedClass_eq_key (k : KeyClass) (a : Action) : decodedClass c w = some (keyCommandClass k a) ↔
    w.op = 0#2 ∧ w.reservedBits = 0#22 ∧ w.actionBit = actionBit a ∧ classify c w.symbol.toNat = k := by
  have hact : actionOfBit w.actionBit = a ↔ w.actionBit = actionBit a :=
    ⟨fun h => by rw [← h, actionBit_actionOfBit], fun h => by rw [h, actionOfBit_actionBit]⟩
  rw [decodedClass_eq_some h8]
  constructor
  · rintro ⟨cmd, hcmd, hcls⟩
    obtain ⟨-, rfl⟩ | ⟨-, -, rfl⟩ | ⟨hop, hres, rfl⟩ := decodeCmd_cases hcmd
    · exact absurd hcls.symm (keyCommandClass_ne k a).1
    · exact absurd hcls.symm (keyCommandClass_ne k a).2
    · rw [Cmd.toInstr, commandClass_dispatchKey, keyCommandClass_inj] at hcls
      exact ⟨hop, hres, hact.mp hcls.2, hcls.1⟩
  · rintro ⟨hop, hres, ha, hk⟩
    refine ⟨.key w.symbol.toNat (actionOfBit w.actionBit) w.restBit, by simp [decodeCmd, hop, hres], ?_⟩
    rw [Cmd.toInstr, commandClass_dispatchKey, keyCommandClass_inj]
    exact ⟨hk, hact.mpr ha⟩

end

/-! ### The rows (R83) -/

/-- A designated key's row is the class of its key, where the keycode fits the word's symbol field. -/
theorem matches_designatedKey {c : Config} (h8 : 8 ≤ c.symW) {x : Nat} (hx : x < 2 ^ 8) {k : KeyClass}
    (hk : ∀ y, classify c y = k ↔ y = x) (a : Action) (w : CmdWord) :
    OpcodeRow.matches c ⟨keyCommandClass k a, 0x3FFFFFDFF#34, keyWord x a false, .keycode x⟩ w = true ↔
      decodedClass c w = some (keyCommandClass k a) := by
  rw [decodedClass_eq_key h8, hk]
  simp only [OpcodeRow.matches, RowCondition.holds, decide_eq_true hx, Bool.and_true, beq_iff_eq, keyMask_iff hx]

/-- A row whose condition is that the symbol is of one class is that class. -/
theorem matches_classCondition {c : Config} (h8 : 8 ≤ c.symW) {condition : RowCondition} {k : KeyClass} {w : CmdWord}
    (hk : condition.holds c w = true ↔ classify c w.symbol.toNat = k) (a : Action) :
    OpcodeRow.matches c ⟨keyCommandClass k a, 0x3FFFFFD00#34, keyWord 0 a false, condition⟩ w = true ↔
      decodedClass c w = some (keyCommandClass k a) := by
  rw [decodedClass_eq_key h8, ← hk]
  simp only [OpcodeRow.matches, Bool.and_eq_true, beq_iff_eq, edgeMask_iff, and_assoc]

theorem letterCondition_iff {c : Config} (h : c.WF) {w : CmdWord} :
    RowCondition.letter.holds c w = true ↔ classify c w.symbol.toNat = .alpha := by
  rw [classify_eq_alpha h, RowCondition.holds, decide_eq_true_iff]

theorem otherCondition_iff {c : Config} (h8 : 8 ≤ c.symW) {w : CmdWord} :
    RowCondition.other.holds c w = true ↔ classify c w.symbol.toNat = .other := by
  rw [classify_eq_other, RowCondition.holds, decide_eq_true_iff, and_iff_right (lt_symW_of_word h8 w.symbol.isLt)]

/-- The opcode map with the patterns of the key events written as KEY words. -/
theorem opcodeRows_eq (c : Config) : opcodeRows c =
    [ ⟨.seed, 0x300000000#34, 0x100000000#34, .always⟩,
      ⟨.next, 0x3FFFFFFFF#34, 0x200000000#34, .always⟩,
      ⟨keyCommandClass .toggle .press, 0x3FFFFFDFF#34, keyWord c.kcToggle .press false, .keycode c.kcToggle⟩,
      ⟨keyCommandClass .toggle .release, 0x3FFFFFDFF#34, keyWord c.kcToggle .release false, .keycode c.kcToggle⟩,
      ⟨keyCommandClass .reseed .press, 0x3FFFFFDFF#34, keyWord c.kcReseed .press false, .keycode c.kcReseed⟩,
      ⟨keyCommandClass .reseed .release, 0x3FFFFFDFF#34, keyWord c.kcReseed .release false, .keycode c.kcReseed⟩,
      ⟨keyCommandClass .alpha .press, 0x3FFFFFD00#34, keyWord 0 .press false, .letter⟩,
      ⟨keyCommandClass .alpha .release, 0x3FFFFFD00#34, keyWord 0 .release false, .letter⟩,
      ⟨keyCommandClass .other .press, 0x3FFFFFD00#34, keyWord 0 .press false, .other⟩,
      ⟨keyCommandClass .other .release, 0x3FFFFFD00#34, keyWord 0 .release false, .other⟩ ] := by
  simp only [keyWord_press, keyWord_release]
  rfl

/-- A word matches a row exactly when the decoder gives it the row's class. -/
theorem matches_iff_decodedClass {c : Config} (h : c.WF) (hw : c.symW = 8) {row : OpcodeRow} (hrow : row ∈ opcodeRows c)
    (w : CmdWord) : row.matches c w = true ↔ decodedClass c w = some row.cls := by
  have h8 : 8 ≤ c.symW := hw.ge
  obtain ⟨-, htoggle, hreseed, -⟩ := Config.wf_iff.mp h
  rw [hw] at htoggle hreseed
  rw [opcodeRows_eq] at hrow
  simp only [List.mem_cons, List.not_mem_nil, or_false] at hrow
  rcases hrow with rfl | rfl | rfl | rfl | rfl | rfl | rfl | rfl | rfl | rfl
  · rw [decodedClass_eq_seed h8, ← seedMask_iff]
    simp [OpcodeRow.matches, RowCondition.holds]
  · rw [decodedClass_eq_next h8, ← nextMask_iff]
    simp [OpcodeRow.matches, RowCondition.holds]
  · exact matches_designatedKey h8 htoggle (fun _ => classify_eq_toggle) .press w
  · exact matches_designatedKey h8 htoggle (fun _ => classify_eq_toggle) .release w
  · exact matches_designatedKey h8 hreseed (fun _ => classify_eq_reseed h) .press w
  · exact matches_designatedKey h8 hreseed (fun _ => classify_eq_reseed h) .release w
  · exact matches_classCondition h8 (letterCondition_iff h) .press
  · exact matches_classCondition h8 (letterCondition_iff h) .release
  · exact matches_classCondition h8 (otherCondition_iff h8) .press
  · exact matches_classCondition h8 (otherCondition_iff h8) .release

/-- The classes of the rows, in R83's order. -/
theorem opcodeRows_cls (c : Config) : (opcodeRows c).map (·.cls) =
    [.seed, .next, .toggleP, .toggleR, .reseedP, .reseedR, .alphaP, .alphaR, .otherP, .otherR] := rfl

/-- Every class has its row. -/
theorem exists_row_of_class (c : Config) (cls : CommandClass) : ∃ row ∈ opcodeRows c, row.cls = cls := by
  rw [← List.mem_map, opcodeRows_cls]
  cases cls <;> decide

/-- No two rows are of one class. -/
theorem row_eq_of_cls_eq {c : Config} {row row' : OpcodeRow} (hrow : row ∈ opcodeRows c) (hrow' : row' ∈ opcodeRows c)
    (h : row.cls = row'.cls) : row = row' :=
  List.inj_on_of_nodup_map (by rw [opcodeRows_cls]; decide) hrow hrow' h

/-- The first row a word matches is of the class the decoder gives it. -/
theorem tableClass_eq_decodedClass {c : Config} (h : c.WF) (hw : c.symW = 8) (w : CmdWord) :
    tableClass c w = decodedClass c w := by
  unfold tableClass
  cases hfind : (opcodeRows c).find? fun row => row.matches c w with
  | some row =>
    have hmatch := List.find?_some hfind
    exact ((matches_iff_decodedClass h hw (List.mem_of_find?_eq_some hfind) w).mp hmatch).symm
  | none =>
    cases hcls : decodedClass c w with
    | none => rfl
    | some cls =>
      obtain ⟨row, hrow, rfl⟩ := exists_row_of_class c cls
      exact absurd ((matches_iff_decodedClass h hw hrow w).mpr hcls) (List.find?_eq_none.mp hfind row hrow)

/-- Settles O4: a row is matched exactly by the words of its class, and each class has one row. -/
theorem decodeFollowsTheOpcodeTable : Obligations.DecodeFollowsTheOpcodeTable := by
  refine ⟨fun c w h hw => ⟨(tableClass_eq_decodedClass h hw w).symm, ?_⟩, by decide⟩
  intro row hrow row' hrow' hmatch hmatch'
  have hcls := (matches_iff_decodedClass h hw hrow w).mp hmatch
  have hcls' := (matches_iff_decodedClass h hw hrow' w).mp hmatch'
  exact row_eq_of_cls_eq hrow hrow' (Option.some.inj (hcls.symm.trans hcls'))

end Sys2Proof
end

section
/-! PROOFS. The response of every instruction, said once, and the response word (30_encoding.md R78, R81). -/

namespace Sys2Proof

open Sys2Proof.Machine

/-! ### The fields of the response word -/

/-- The action bit of a forwarded event, 0 when nothing is forwarded (R78). -/
def Rsp.actionField (r : Rsp) : Nat := (r.fwd.map fun e => (decide (e.action = .press)).toNat).getD 0

/-- The symbol of a forwarded event, 0 when nothing is forwarded (R78). -/
def Rsp.symbolField (r : Rsp) : Nat := (r.fwd.map (·.symbol)).getD 0

theorem actionBit_eq_decide (a : Action) : actionBit a = decide (a = .press) := by cases a <;> rfl

theorem fwdField_eq (r : Rsp) : fwdField r.fwd = r.fwd.isSome.toNat * 2 ^ 9 + r.actionField * 2 ^ 8 + r.symbolField := by
  unfold Rsp.actionField Rsp.symbolField
  cases r.fwd with
  | none => rfl
  | some e => simp [fwdField, actionBit_eq_decide]

theorem drawField_eq (d : Option Nat) : drawField d = d.isSome.toNat * 2 ^ 16 + d.getD 0 * 2 ^ 11 := by
  cases d <;> simp [drawField]

theorem Rsp.actionField_le (r : Rsp) : r.actionField ≤ 1 := by
  unfold Rsp.actionField
  cases r.fwd with
  | none => exact Nat.zero_le 1
  | some e => exact Bool.toNat_le _

/-- A response has a word when its symbol fits eight bits and its draw five. -/
theorem Rsp.hasWord_iff {r : Rsp} : r.hasWord = true ↔ r.symbolField < 2 ^ 8 ∧ r.draw.getD 0 < 2 ^ 5 := by
  unfold Rsp.hasWord Rsp.symbolField
  cases r.fwd <;> cases r.draw <;> simp

/-- R78's table: each field of the response word at its place, since the fields are each within their width. -/
theorem Rsp.word_fields {r : Rsp} {w : RspWord} (h : r.word = some w) :
    w.toNat / 2 ^ 16 = r.draw.isSome.toNat ∧ w.toNat / 2 ^ 11 % 2 ^ 5 = r.draw.getD 0 ∧
      w.toNat / 2 ^ 10 % 2 = r.consumed.toNat ∧ w.toNat / 2 ^ 9 % 2 = r.fwd.isSome.toNat ∧
      w.toNat / 2 ^ 8 % 2 = r.actionField ∧ w.toNat % 2 ^ 8 = r.symbolField := by
  unfold Rsp.word at h
  split at h
  case isTrue hword =>
    obtain ⟨hsym, hdraw⟩ := Rsp.hasWord_iff.mp hword
    have hact := r.actionField_le
    have hd := Bool.toNat_le r.draw.isSome
    have hq := Bool.toNat_le r.consumed
    have hf := Bool.toNat_le r.fwd.isSome
    rw [← Option.some.inj h, BitVec.toNat_ofNat, drawField_eq, fwdField_eq]
    omega
  case isFalse => cases h

/-- The reading of a response word, from its number. -/
theorem Rsp.ofWord_eq (w : RspWord) : Rsp.ofWord w =
    { consumed := decide (w.toNat / 2 ^ 10 % 2 = 1)
      fwd := if w.toNat / 2 ^ 9 % 2 = 1
        then some ⟨w.toNat % 2 ^ 8, actionOfBit (decide (w.toNat / 2 ^ 8 % 2 = 1))⟩ else none
      draw := if w.toNat / 2 ^ 16 = 1 then some (w.toNat / 2 ^ 11 % 2 ^ 5) else none } := by
  have htop : w.toNat / 2 ^ 16 % 2 = w.toNat / 2 ^ 16 := by omega
  simp only [Rsp.ofWord, getLsbD_eq_decide, BitVec.extractLsb'_toNat, Nat.shiftRight_eq_div_pow, decide_eq_true_eq, htop,
    pow_zero, Nat.div_one]

/-- A response word is read back as the response it stands for. -/
theorem Rsp.ofWord_of_word {r : Rsp} {w : RspWord} (h : r.word = some w) : Rsp.ofWord w = r := by
  obtain ⟨hdv, hd, hq, hfv, ha, hs⟩ := Rsp.word_fields h
  rw [Rsp.ofWord_eq, hdv, hd, hq, hfv, ha, hs]
  unfold Rsp.actionField Rsp.symbolField
  obtain ⟨q, fwd, draw⟩ := r
  congr
  · cases q <;> rfl
  · cases fwd with
    | none => rfl
    | some e =>
      obtain ⟨x, a⟩ := e
      cases a <;> rfl
  · cases draw <;> rfl

/-! ### The response of an instruction -/

/-- The response of a reseed key event (R126, R127). -/
def reseedRsp (draws : Bool) (a : Action) (s : State) : Rsp :=
  ⟨false, some ⟨s.config.kcReseed, a⟩, if draws then some s.draw.rot else none⟩

/-- The response of an instruction (R81, R102, R106, R122 to R129). -/
def Instr.response (s : State) : Instr → Rsp
  | .seed _ => ⟨false, none, none⟩
  | .next => ⟨false, none, some s.draw.rot⟩
  | .togglePress _ => ⟨true, none, none⟩
  | .toggleRelease _ => ⟨true, none, none⟩
  | .alphaPress letter _ => letterRsp letter .press s
  | .alphaRelease letter _ => letterRsp letter .release s
  | .reseedPress rest => reseedRsp rest .press s
  | .reseedRelease rest => reseedRsp (s.config.reseedOnRelease && rest) .release s
  | .otherPress symbol _ => ⟨false, some ⟨symbol, .press⟩, none⟩
  | .otherRelease symbol _ => ⟨false, some ⟨symbol, .release⟩, none⟩

/-- A reseed key event answers `reseedRsp`, and writes ROT when it draws. -/
theorem reseedEvent_rsp_rot (e b : Bool) (a : Action) (s : State) :
    ((s.latchRest b).reseedEvent e a).rsp = some (reseedRsp (e && b) a s) ∧
      ((s.latchRest b).reseedEvent e a).rot = if e && b then s.draw.rot else s.rot := by
  cases hd : e && b with
  | true => rw [State.reseedEvent_draws a hd]; exact ⟨rfl, rfl⟩
  | false => rw [State.reseedEvent_passes a hd]; exact ⟨rfl, rfl⟩

/-- What every instruction answers, and that ROT is written by a draw alone. -/
theorem exec_rsp_rot {i : Instr} {s t : State} (h : exec i s = .next t) :
    t.rsp = some (i.response s) ∧ t.rot = if i.draws s.config then s.draw.rot else s.rot := by
  cases i with
  | reseedPress rest => cases h; exact reseedEvent_rsp_rot true rest .press s
  | reseedRelease rest => cases h; exact reseedEvent_rsp_rot s.config.reseedOnRelease rest .release s
  | alphaPress letter rest => cases h; exact ⟨State.letterEvent_rsp .., State.letterEvent_rot ..⟩
  | alphaRelease letter rest => cases h; exact ⟨State.letterEvent_rsp .., State.letterEvent_rot ..⟩
  | _ => cases h; exact ⟨rfl, rfl⟩

theorem letterRsp_of_on {s : State} (hen : s.en = true) (l : Letter) (a : Action) :
    letterRsp l a s = ⟨true, some ⟨symbolOf s.config (rotn l s.rot), a⟩, none⟩ := if_pos hen

theorem letterRsp_of_off {s : State} (hen : s.en = false) (l : Letter) (a : Action) :
    letterRsp l a s = ⟨false, some ⟨symbolOf s.config l, a⟩, none⟩ := by simp [letterRsp, hen]

theorem letterRsp_draw (l : Letter) (a : Action) (s : State) : (letterRsp l a s).draw = none := by
  unfold letterRsp
  split <;> rfl

/-- A letter event forwards a letter's keycode, whatever EN is. -/
theorem letterRsp_fwd_lt {l : Letter} {a : Action} {s : State} {e : KeyEvent} (he : (letterRsp l a s).fwd = some e) :
    e.symbol < 2 ^ s.config.symW := by
  unfold letterRsp at he
  split at he <;> cases he <;> exact symbolOf_lt ..

/-- The symbol of a well-formed OTHER command is of SYM_W bits (R70); a release has the same check. -/
theorem lt_of_otherPress_wf {c : Config} {x : Nat} {b : Bool} (h : (Instr.otherPress x b).wf c = true) :
    x < 2 ^ c.symW := of_decide_eq_true (Bool.and_eq_true_iff.mp h).1

/-- The response carries the value drawn exactly when `next()` runs (R78). -/
theorem response_draw (i : Instr) (s : State) :
    (i.response s).draw = if i.draws s.config then some s.draw.rot else none := by
  cases i with
  | alphaPress letter rest => exact letterRsp_draw letter .press s
  | alphaRelease letter rest => exact letterRsp_draw letter .release s
  | _ => rfl

/-- What a well-formed instruction forwards is a symbol of SYM_W bits (R70, R78). -/
theorem response_fwd_lt {i : Instr} {s : State} (h : s.config.WF) (hi : i.wf s.config = true) {e : KeyEvent}
    (he : (i.response s).fwd = some e) : e.symbol < 2 ^ s.config.symW := by
  obtain ⟨-, -, hreseed, -⟩ := Config.wf_iff.mp h
  cases i with
  | alphaPress letter rest => exact letterRsp_fwd_lt he
  | alphaRelease letter rest => exact letterRsp_fwd_lt he
  | reseedPress rest => cases he; exact hreseed
  | reseedRelease rest => cases he; exact hreseed
  | otherPress symbol rest => cases he; exact lt_of_otherPress_wf (b := rest) hi
  | otherRelease symbol rest => cases he; exact lt_of_otherPress_wf (b := rest) hi
  | _ => cases he

/-- With symbols of at most eight bits every response of a well-formed instruction has its word (R78). -/
theorem exists_response_word {i : Instr} {s : State} (h : s.config.WF) (hi : i.wf s.config = true)
    (h8 : s.config.symW ≤ 8) : ∃ w, (i.response s).word = some w := by
  have hsym : (i.response s).symbolField < 2 ^ 8 := by
    unfold Rsp.symbolField
    cases he : (i.response s).fwd with
    | none => decide
    | some e => exact lt_word_of_symW h8 (response_fwd_lt h hi he)
  have hdraw : (i.response s).draw.getD 0 < 2 ^ 5 := by
    have hbounds := draw_rot_bounds s
    rw [response_draw]
    split
    · simp only [Option.getD_some]
      omega
    · decide
  exact ⟨_, if_pos (Rsp.hasWord_iff.mpr ⟨hsym, hdraw⟩)⟩

/-- The PRNG commands consume nothing (R81). -/
theorem response_consumed_of_prng {i : Instr} (s : State) (h : i.commandClass = .seed ∨ i.commandClass = .next) :
    (i.response s).consumed = false := by
  cases i with
  | seed | next => rfl
  | _ => simp [Instr.commandClass] at h

/-- Settles O10: the word by its sum of fields, the response by `Instr.response`. -/
theorem responseWordFields : Obligations.ResponseWordFields := by
  refine ⟨fun r w h => ?_, fun i s => ?_⟩
  · obtain ⟨hdv, hd, hq, hfv, ha, hs⟩ := Rsp.word_fields h
    exact ⟨hdv, hd, hq, hfv, ha, hs, Rsp.ofWord_of_word h⟩
  · obtain ⟨t, ht⟩ := exec_next i s
    obtain ⟨-, -, r, hrsp, hrsps⟩ := exec_frame ht
    obtain ⟨hresponse, hrot⟩ := exec_rsp_rot ht
    obtain rfl : r = i.response s := Option.some.inj (hrsp.symm.trans hresponse)
    have hhost : t.hostStream = s.hostStream ++ (i.response s).fwd.toList := by
      rw [hostStream_of_rsps_append hrsps]
      cases hfwd : (i.response s).fwd <;> simp [hfwd]
    have hdraw : (i.response s).draw = if i.draws s.config then some t.rot else none := by
      rw [response_draw, hrot]
      split <;> rfl
    have hbounds (hd : i.draws s.config = true) : 1 ≤ t.rot ∧ t.rot ≤ 25 := by
      rw [hrot, if_pos hd]
      exact draw_rot_bounds s
    exact ⟨t, _, ht, hrsp, hrsps, hhost, exists_response_word, hdraw, hbounds, response_consumed_of_prng s⟩

/-! ### Consumed and forwarded (R81) -/

/-- A letter event is consumed and replaced while EN = 1, and passes through while EN = 0 (R124, R125). -/
theorem letterRsp_by_en (l : Letter) (a : Action) (s : State) :
    if s.en then (letterRsp l a s).consumed = true ∧ (letterRsp l a s).fwd.isSome = true
    else (letterRsp l a s).consumed = false ∧ (letterRsp l a s).fwd = some ⟨symbolOf s.config l, a⟩ := by
  cases hen : s.en with
  | true => rw [letterRsp_of_on hen]; exact ⟨rfl, rfl⟩
  | false => rw [letterRsp_of_off hen]; exact ⟨rfl, rfl⟩

/-- Settles O11: the response of each instruction, letters by EN. -/
theorem consumedAndForwardedByClass : Obligations.ConsumedAndForwardedByClass := by
  intro i s
  obtain ⟨t, ht⟩ := exec_next i s
  refine ⟨t, i.response s, ht, (exec_rsp_rot ht).1, ?_⟩
  cases i with
  | alphaPress letter rest => exact letterRsp_by_en letter .press s
  | alphaRelease letter rest => exact letterRsp_by_en letter .release s
  | _ => exact ⟨rfl, rfl⟩

end Sys2Proof
end

section
/-! PROOFS. The generator as numbers, what `next()` writes and which instructions run it, and the statements of 40_prng.md
(R100 to R106). -/

namespace Sys2Proof

open Sys2Proof.Machine Sys2Proof.Claims

/-! ### The advance and the draw as numbers (R100, R101, R104) -/

theorem lcgStep_toNat_eq_advanced (x : SeedWord) : (lcgStep x).toNat = advanced x := lcgStep_toNat x

theorem lcgStep_eq_ofNat_advanced (x : SeedWord) : lcgStep x = BitVec.ofNat 32 (advanced x) := by
  rw [← lcgStep_toNat_eq_advanced, BitVec.ofNat_toNat, BitVec.setWidth_eq]

/-- The output function is `drawn` of the seed's number. -/
theorem reduce_eq_drawn (x : SeedWord) : reduce x = drawn x.toNat := rfl

theorem reduce_lcgStep (x : SeedWord) : reduce (lcgStep x) = drawn (advanced x) := by
  rw [reduce_eq_drawn, lcgStep_toNat_eq_advanced]

/-- `next()` writes the advanced seed and its reduction, and nothing else (R103). -/
theorem draw_eq_afterDraw (s : State) : s.draw = afterDraw s := by
  rw [State.draw, reduce_lcgStep, lcgStep_eq_ofNat_advanced, afterDraw]

/-- Settles O16: the model's sum and product with the factors in R100's order. -/
theorem advanceWrapsModulo2To32 : Obligations.AdvanceWrapsModulo2To32 := by
  refine ⟨fun x => ⟨?_, product_lt x⟩, State.draw_seed⟩
  rw [lcgStep_toNat, Nat.add_comm, Nat.mul_comm]

theorem upperHalf_le (x : SeedWord) : x.toNat / 65536 ≤ 65535 := by
  have := x.isLt
  omega

/-- The low 16 bits of a seed have no influence on the output (R101). -/
theorem reduce_congr_upperHalf {x y : SeedWord} (h : x.toNat / 65536 = y.toNat / 65536) : reduce x = reduce y := by
  rw [reduce_eq_drawn, reduce_eq_drawn, drawn, drawn, h]

/-- The lower end of the range: the seed 0 advances to 12345, whose upper half is 0. -/
theorem reduce_lcgStep_zero : reduce (lcgStep 0#32) = 1 := by decide

/-- The upper end of the range: this seed advances to 0x00180000, whose upper half is 24. -/
theorem reduce_lcgStep_upperEnd : reduce (lcgStep 0x0DEFA683#32) = 25 := by decide

/-- Settles O18: the range from the modulus, the two ends from the seeds 0 and 0x0DEFA683. -/
theorem drawIsFrom1To25 : Obligations.DrawIsFrom1To25 := by
  refine ⟨fun x => ⟨reduce_eq_drawn x, upperHalf_le x⟩, fun s => ⟨reduce_eq_drawn s.draw.seed, draw_rot_bounds s⟩,
    fun _ _ => reduce_congr_upperHalf, fun s hs => ?_, 0x0DEFA683#32, fun s hs => ?_⟩
  · rw [State.draw_rot, hs, reduce_lcgStep_zero]
  · rw [State.draw_rot, hs, reduce_lcgStep_upperEnd]

/-! ### Where `next()` runs (R103) -/

/-- A reseed key event advances SEED exactly when it draws (R126, R127). -/
theorem reseedEvent_seed (e b : Bool) (a : Action) (s : State) :
    ((s.latchRest b).reseedEvent e a).seed = if e && b then lcgStep s.seed else s.seed := by
  cases hd : e && b with
  | true => rw [State.reseedEvent_draws a hd]; rfl
  | false => rw [State.reseedEvent_passes a hd]; rfl

/-- Apart from the seed load, SEED is written by a draw alone. -/
theorem exec_seed {i : Instr} {s t : State} (h : exec i s = .next t) (hi : i.commandClass ≠ .seed) :
    t.seed = if i.draws s.config then lcgStep s.seed else s.seed := by
  cases i with
  | seed value => exact absurd rfl hi
  | reseedPress rest => cases h; exact reseedEvent_seed true rest .press s
  | reseedRelease rest => cases h; exact reseedEvent_seed s.config.reseedOnRelease rest .release s
  | alphaPress letter rest => cases h; exact State.letterEvent_seed ..
  | alphaRelease letter rest => cases h; exact State.letterEvent_seed ..
  | _ => cases h; rfl

/-- A seed load does not draw (R102). -/
theorem commandClass_ne_seed_of_draws {c : Config} {i : Instr} (h : i.draws c = true) : i.commandClass ≠ .seed := by
  cases i with
  | seed value => cases h
  | _ => exact CommandClass.noConfusion

/-- Settles O15: what a draw writes as numbers; SEED, ROT and the response of every instruction by whether it draws. -/
theorem nextRunsOnlyInsideDraws : Obligations.NextRunsOnlyInsideDraws := by
  refine ⟨draw_eq_afterDraw, fun i s t h => ?_⟩
  obtain ⟨hrsp, hrot⟩ := exec_rsp_rot h
  refine ⟨fun hd => ?_, fun hd => ⟨?_, fun hi => ?_⟩⟩
  · have hseed : t.seed = lcgStep s.seed := by rw [exec_seed h (commandClass_ne_seed_of_draws hd), if_pos hd]
    have hdrawn : t.rot = s.draw.rot := by rw [hrot, if_pos hd]
    have hanswer : t.rsp.bind (·.draw) = some s.draw.rot := by rw [hrsp, Option.bind_some, response_draw, if_pos hd]
    exact ⟨by rw [hseed, lcgStep_toNat_eq_advanced], by rw [hdrawn, State.draw_rot, reduce_lcgStep],
      by rw [hanswer, hdrawn]⟩
  · rw [hrot, hd]
    rfl
  · rw [exec_seed h hi, hd]
    rfl

/-! ### The commands SEED and NEXT (R102, R106) -/

/-- Settles O13: the meaning is the load and the response; the word is the command's own. -/
theorem seedCommandLoadsSeedOnly : Obligations.SeedCommandLoadsSeedOnly :=
  ⟨fun _ _ => rfl, fun _ v => decode_encodeCmd (cmd := .seed v) rfl rfl⟩

/-- NEXT draws and answers the value drawn, whatever REST and EN hold (R106). -/
theorem exec_next_eq_answer (s : State) : exec .next s = .next (answer s.draw ⟨false, none, some s.draw.rot⟩) := rfl

/-- Settles O14: the draw written as numbers; the word is the command's own. -/
theorem nextCommandDraws : Obligations.NextCommandDraws := by
  refine ⟨fun s => ?_, fun _ => decode_encodeCmd (cmd := .next) rfl rfl⟩
  rw [exec_next_eq_answer, State.draw_rot, reduce_lcgStep, draw_eq_afterDraw]

/-! ### The same seed, the same draw (R105) -/

/-- A step that accepts what the environment presents for a command runs that command's instruction. -/
theorem step_of_present {s : State} {cmd : Cmd} {ps : List Presented} (hwf : s.config.WF) (hc : s.cmds = cmd.present :: ps)
    (hf : cmd.fits s.config = true) : step s = exec (cmd.toInstr s.config) { s with cmds := ps } :=
  step_of_decode hwf hc (decode_of_cmd (cmd_present hf))

/-- A seed load and then NEXT leave SEED, ROT and the response as functions of the loaded value alone. -/
theorem run_seed_next {s : State} {v : SeedWord} {ps : List Presented} (hwf : s.config.WF)
    (hc : s.cmds = (Cmd.seed v).present :: Cmd.next.present :: ps) :
    ∃ s', run 2 s = .next s' ∧ s'.seed = lcgStep v ∧ s'.rot = reduce (lcgStep v) ∧
      s'.rsp = some ⟨false, none, some (reduce (lcgStep v))⟩ := by
  have hload := step_of_present hwf hc rfl
  have hnext := step_of_present (s := ({ s with cmds := Cmd.next.present :: ps }.loadSeed v).respond false none none)
    (cmd := .next) (by rwa [State.respond_config, State.loadSeed_config]) rfl rfl
  exact ⟨_, run_succ_next_iff.mpr ⟨_, hload, run_succ_next_iff.mpr ⟨_, hnext, run_zero _⟩⟩, rfl, rfl, rfl⟩

/-- Settles O19: a draw is a function of SEED, and the two runs end with the same function of the loaded value. -/
theorem drawIsDeterminedBySeed : Obligations.DrawIsDeterminedBySeed := by
  refine ⟨fun s t h => ?_, fun s t v ps ps' hs ht hcs hct => ?_⟩
  · rw [State.draw_seed, State.draw_seed, State.draw_rot, State.draw_rot, h]
    exact ⟨rfl, rfl⟩
  · obtain ⟨s', hrun, hseed, hrot, hrsp⟩ := run_seed_next hs hcs
    obtain ⟨t', hrun', hseed', hrot', hrsp'⟩ := run_seed_next ht hct
    exact ⟨s', t', hrun, hrun', hseed.trans hseed'.symm, hrot.trans hrot'.symm, hrsp.trans hrsp'.symm⟩

end Sys2Proof
end

section
/-! PROOFS. The meanings of the KEY commands as full next states, how they latch REST, and what a letter answers by EN
(41_cipher_engine.md R120 to R129, R136). -/

namespace Sys2Proof

open Sys2Proof.Machine Sys2Proof.Claims

/-! ### REST (R120) -/

/-- The rest bit a KEY instruction carries; SEED and NEXT carry none (R70). -/
def Instr.restOperand : Instr → Option Bool
  | .seed _ => none
  | .next => none
  | .togglePress rest => some rest
  | .toggleRelease rest => some rest
  | .alphaPress _ rest => some rest
  | .alphaRelease _ rest => some rest
  | .reseedPress rest => some rest
  | .reseedRelease rest => some rest
  | .otherPress _ rest => some rest
  | .otherRelease _ rest => some rest

/-- A key event's instruction carries the event's rest bit, whatever its class. -/
theorem restOperand_dispatchKey (c : Config) (x : Nat) (a : Action) (b : Bool) :
    (dispatchKey c x a b).restOperand = some b := by
  cases hx : classify c x with
  | toggle => rw [dispatchKey_toggle hx]; cases a <;> rfl
  | reseed => rw [dispatchKey_reseed hx]; cases a <;> rfl
  | alpha => rw [dispatchKey_alpha hx]; cases a <;> rfl
  | other => rw [dispatchKey_other hx]; cases a <;> rfl

/-- REST after an instruction is the rest bit it carries, and is unchanged where it carries none (R24, R120). -/
theorem exec_rest {i : Instr} {s t : State} (h : exec i s = .next t) : t.rest = i.restOperand.getD s.rest := by
  cases i with
  | reseedPress rest => cases h; exact State.reseedEvent_rest ..
  | reseedRelease rest => cases h; exact State.reseedEvent_rest ..
  | alphaPress letter rest => cases h; exact State.letterEvent_rest ..
  | alphaRelease letter rest => cases h; exact State.letterEvent_rest ..
  | _ => cases h; rfl

/-- An instruction that carries a rest bit latches it before anything reads REST, so what REST held has no influence. -/
theorem exec_ignores_rest {i : Instr} {b : Bool} (hi : i.restOperand = some b) (s : State) (q : Bool) :
    exec i { s with rest := q } = exec i s := by
  cases i with
  | seed | next => cases hi
  | _ => rfl

/-- The commands SEED and NEXT carry no rest bit. -/
theorem restOperand_of_prng {c : Config} {cmd : Cmd} (h : (∃ v, cmd = .seed v) ∨ cmd = .next) :
    (cmd.toInstr c).restOperand = none := by
  obtain ⟨v, rfl⟩ | rfl := h <;> rfl

/-- Settles O33: REST by the rest bit the dispatched instruction carries, the old value by `exec_ignores_rest`. -/
theorem keyCommandsLatchRestFirst : Obligations.KeyCommandsLatchRestFirst := by
  refine ⟨fun s p ps x a b hwf hc hcmd => ?_, fun s s' p ps hc hcmd hstep => ?_⟩
  · have hd : p.decode s.config = some (dispatchKey s.config x a b) := decode_of_cmd hcmd
    have hoperand := restOperand_dispatchKey s.config x a b
    obtain ⟨t, ht⟩ := exec_next (dispatchKey s.config x a b) { s with cmds := ps }
    have hstep (q : Bool) : step { s with rest := q } = .next t :=
      (step_of_decode (s := { s with rest := q }) hwf hc hd).trans ((exec_ignores_rest hoperand _ q).trans ht)
    refine ⟨t, _, hstep s.rest, by rw [exec_rest ht, hoperand]; rfl, hd, ht, ?_, hstep⟩
    rw [commandClass_dispatchKey]
    cases classify s.config x <;> cases a <;> rfl
  · obtain ⟨hwf, -⟩ := step_next_cases hstep
    obtain ⟨cmd, hp, hprng⟩ : ∃ cmd, p.cmd s.config = some cmd ∧ ((∃ v, cmd = .seed v) ∨ cmd = .next) := by
      obtain ⟨v, hv⟩ | hnext := hcmd
      · exact ⟨_, hv, .inl ⟨v, rfl⟩⟩
      · exact ⟨_, hnext, .inr rfl⟩
    rw [step_of_decode hwf hc (decode_of_cmd hp)] at hstep
    rw [exec_rest hstep, restOperand_of_prng hprng]
    rfl

/-! ### EN and the letters (R121) -/

/-- The instruction of a letter's key event answers as a letter event with that letter's index. -/
theorem response_dispatchKey_alpha {s : State} {x : Nat} (hx : classify s.config x = .alpha) (a : Action) (b : Bool) :
    (dispatchKey s.config x a b).response s = letterRsp (indexOf s.config x hx) a s := by
  rw [dispatchKey_alpha hx]
  cases a <;> rfl

/-- With EN = 0 a letter is answered by its own keycode: the conversion to an index and back loses nothing. -/
theorem letterRsp_indexOf {s : State} (hwf : s.config.WF) {x : Nat} (hx : classify s.config x = .alpha) (a : Action) :
    letterRsp (indexOf s.config x hx) a s =
      if s.en then ⟨true, some ⟨symbolOf s.config (rotn (indexOf s.config x hx) s.rot), a⟩, none⟩
      else ⟨false, some ⟨x, a⟩, none⟩ := by
  rw [letterRsp, symbolOf_indexOf hwf]

/-- Settles O34: EN by its one writer, a letter's answer by the response of the instruction its key event is. -/
theorem toggleMachineOnEn : Obligations.ToggleMachineOnEn := by
  refine ⟨fun _ => rfl, fun s p ps i hwf hc hd => ?_⟩
  obtain ⟨t, ht⟩ := exec_next i { s with cmds := ps }
  refine ⟨t, (step_of_decode hwf hc hd).trans ht, exec_en (s := { s with cmds := ps }) ht, fun x a b hx hcmd => ?_⟩
  obtain rfl : dispatchKey s.config x a b = i := Option.some.inj ((decode_of_cmd hcmd).symm.trans hd)
  obtain ⟨hrsp, -⟩ := exec_rsp_rot ht
  rw [hrsp, response_dispatchKey_alpha (s := { s with cmds := ps }) hx, letterRsp_indexOf (s := { s with cmds := ps }) hwf]

/-! ### KEY words of the reference configuration (R72) -/

/-- Under the reference configuration, a KEY word decodes to what its symbol's class dispatches. -/
theorem decode_keyWord_reference {x : Nat} (hx : x < 2 ^ 8) (a : Action) (b : Bool) :
    decode referenceConfig (keyWord x a b) = some (dispatchKey referenceConfig x a b) :=
  decode_keyWord (Nat.le_refl 8) hx a b

/-- A letter's key event is dispatched as that letter. -/
theorem dispatchKey_symbolOf {c : Config} (h : c.WF) (l : Letter) (b : Bool) :
    dispatchKey c (symbolOf c l) .press b = .alphaPress l b ∧
      dispatchKey c (symbolOf c l) .release b = .alphaRelease l b := by
  rw [dispatchKey_alpha (classify_symbolOf h l), dispatchKey_alpha (classify_symbolOf h l), indexOf_symbolOf h]
  exact ⟨rfl, rfl⟩

/-- The KEY words of the letters, whose keycodes are those from 0x41 on. -/
theorem decode_letterWord (l : Letter) (a : Action) (b : Bool) : decode referenceConfig (keyWord (0x41 + l.val) a b) =
    some (dispatchKey referenceConfig (symbolOf referenceConfig l) a b) := by
  have hl := l.isLt
  have hsym : symbolOf referenceConfig l = 0x41 + l.val := symbolOf_eq referenceConfig_wf l
  rw [hsym, decode_keyWord_reference (by omega)]

/-- The KEY words of the reference toggle key. -/
theorem decode_toggleWord (a : Action) (b : Bool) :
    decode referenceConfig (keyWord 0x80 a b) = some (dispatchKey referenceConfig referenceConfig.kcToggle a b) :=
  decode_keyWord_reference (by decide) a b

/-- The KEY words of the reference reseed key. -/
theorem decode_reseedWord (a : Action) (b : Bool) :
    decode referenceConfig (keyWord 0x08 a b) = some (dispatchKey referenceConfig referenceConfig.kcReseed a b) :=
  decode_keyWord_reference (by decide) a b

/-! ### The toggle key (R122, R123) -/

/-- Settles O22: the meaning as a record, the second press by EN's one writer. -/
theorem togglePressFlipsEn : Obligations.TogglePressFlipsEn := by
  refine ⟨fun _ _ => rfl, fun b b' s t u ht hu => ?_, decode_toggleWord .press false, decode_toggleWord .press true⟩
  have hfirst : t.en = !s.en := exec_en ht
  have hsecond : u.en = !t.en := exec_en hu
  rw [hsecond, hfirst, Bool.not_not]

/-- Settles O23: the meaning latches REST and answers, and no more. -/
theorem toggleReleaseIsANoOp : Obligations.ToggleReleaseIsANoOp :=
  ⟨fun _ _ => rfl, decode_toggleWord .release false, decode_toggleWord .release true⟩

/-! ### The letters (R124, R125) -/

/-- A letter event after the latch is the outcome written out, on either edge and in both states of EN. -/
theorem letterEvent_eq_letterOutcome (l : Letter) (a : Action) (b : Bool) (s : State) :
    (s.latchRest b).letterEvent l a = letterOutcome l a b s := by
  rw [State.letterEvent, State.latchRest_en, letterOutcome]
  split_ifs <;> rfl

/-- Settles O24: the letter event with a press. -/
theorem letterPressIsTransformedWhenOn : Obligations.LetterPressIsTransformedWhenOn := by
  refine ⟨fun l b s => congrArg Host.Outcome.next (letterEvent_eq_letterOutcome l .press b s), fun l b => ?_⟩
  rw [← keyWord_press, decode_letterWord, (dispatchKey_symbolOf referenceConfig_wf l b).1]

/-- Settles O25: the letter event with a release. -/
theorem letterReleaseIsTransformedWhenOn : Obligations.LetterReleaseIsTransformedWhenOn := by
  refine ⟨fun l b s => congrArg Host.Outcome.next (letterEvent_eq_letterOutcome l .release b s), fun l b => ?_⟩
  rw [← keyWord_release, decode_letterWord, (dispatchKey_symbolOf referenceConfig_wf l b).2]

/-! ### The reseed key (R126, R127) -/

/-- A reseed key event after the latch is the outcome written out: it draws where this edge draws and its rest bit is 1. -/
theorem reseedEvent_eq_reseedOutcome (e : Bool) (a : Action) (b : Bool) (s : State) :
    (s.latchRest b).reseedEvent e a = reseedOutcome (e && b) a b s := by
  cases hd : e && b with
  | true =>
    rw [State.reseedEvent_draws a hd, State.draw_rot, reduce_lcgStep, draw_eq_afterDraw]
    rfl
  | false =>
    rw [State.reseedEvent_passes a hd]
    rfl

/-- The advance has no fixed point: multiplier and increment are odd, so every advance flips the low bit of the seed. -/
theorem lcgStep_ne_self (x : SeedWord) : lcgStep x ≠ x := by
  intro h
  have hlow := congrArg (fun y : SeedWord => y.toNat % 2) h
  simp only [lcgStep_toNat, lcgC, lcgA] at hlow
  omega

/-- Settles O26: the reseed event of an edge that always draws; SEED changes because the advance has no fixed point. -/
theorem reseedPressDrawsAtRest : Obligations.ReseedPressDrawsAtRest := by
  refine ⟨fun b s => congrArg Host.Outcome.next (reseedEvent_eq_reseedOutcome true .press b s), fun s t ht => ?_,
    decode_reseedWord .press false, decode_reseedWord .press true⟩
  have hseed : t.seed = lcgStep s.seed := exec_seed ht CommandClass.noConfusion
  exact hseed ▸ lcgStep_ne_self s.seed

/-- Settles O27: the reseed event of an edge that draws if RESEED_ON_RELEASE holds. -/
theorem reseedReleaseDrawsAtRestIfConfigured : Obligations.ReseedReleaseDrawsAtRestIfConfigured :=
  ⟨fun b s => congrArg Host.Outcome.next (reseedEvent_eq_reseedOutcome s.config.reseedOnRelease .release b s),
    decode_reseedWord .release false, decode_reseedWord .release true⟩

/-! ### The other keys (R128, R129) -/

/-- Settles O28: the meaning latches REST and forwards the symbol as it stands. -/
theorem otherPressPassesThrough : Obligations.OtherPressPassesThrough := by
  refine ⟨fun _ _ _ => rfl, fun x b hx hcls => ?_⟩
  rw [← keyWord_press, decode_keyWord_reference hx, dispatchKey_other hcls]

/-- Settles O29: as O28, with a release. -/
theorem otherReleasePassesThrough : Obligations.OtherReleasePassesThrough := by
  refine ⟨fun _ _ _ => rfl, fun x b hx hcls => ?_⟩
  rw [← keyWord_release, decode_keyWord_reference hx, dispatchKey_other hcls]

/-! ### Totality (R136) -/

/-- Settles O30: no instruction stops the core, and `exec_frame` says what every one of them has in common. -/
theorem everyInstructionAnswersOnce : Obligations.EveryInstructionAnswersOnce := by
  intro i s
  obtain ⟨t, ht⟩ := exec_next i s
  obtain ⟨hconfig, hcmds, r, hrsp, hrsps⟩ := exec_frame ht
  exact ⟨t, r, ht, hrsp, hrsps, hcmds, hconfig⟩

end Sys2Proof
end

section
/-! PROOFS. The transformer as a remainder whose symbol is a letter's, and what a letter's substitute depends on
(42_rotn_transformer.md R150, R152, R159). -/

namespace Sys2Proof

open Sys2Proof.Machine

/-! ### The transformer (R150, R152) -/

/-- Settles O47: the transform's value, and the bound from the index's own. -/
theorem rotnIsTheRemainder : Obligations.RotnIsTheRemainder := by
  intro letter rot
  refine ⟨rotn_val letter rot, fun hrot => ?_⟩
  have := letter.isLt
  omega

/-- Settles O48: the transform answers an index, and the symbol of an index is a letter's keycode. -/
theorem transformedLetterIsALetter : Obligations.TransformedLetterIsALetter := by
  intro c letter rot hwf
  have halpha := classify_symbolOf hwf (rotn letter rot)
  exact ⟨halpha, alpha_bounds halpha⟩

/-! ### The substitute of a letter (R159) -/

/-- The symbol a letter is forwarded as, a function of the configuration, EN and ROT (R124, R125). -/
def substitute (c : Config) (en : Bool) (rot : Nat) (l : Letter) : Nat :=
  if en then symbolOf c (rotn l rot) else symbolOf c l

/-- A letter's response: consumed while EN = 1, its substitute forwarded, no draw. -/
theorem letterRsp_eq_substitute (l : Letter) (a : Action) (s : State) :
    letterRsp l a s = ⟨s.en, some ⟨substitute s.config s.en s.rot l, a⟩, none⟩ := by
  cases hen : s.en with
  | true => exact letterRsp_of_on hen l a
  | false => exact letterRsp_of_off hen l a

/-- A step that accepts a letter's key event forwards the letter's substitute. The configuration, EN and ROT are named apart
from the state, so that two states which agree on them are given the same symbol. -/
theorem step_letter_forwards_substitute {s : State} {p : Presented} {ps : List Presented} {c : Config} {en : Bool}
    {rot x : Nat} {a : Action} {b : Bool} (hwf : c.WF) (hconfig : s.config = c) (hen : s.en = en) (hrot : s.rot = rot)
    (hc : s.cmds = p :: ps) (hcmd : p.cmd c = some (.key x a b)) (hx : classify c x = .alpha) :
    ∃ s', step s = .next s' ∧ s'.rsp = some ⟨en, some ⟨substitute c en rot (indexOf c x hx), a⟩, none⟩ := by
  subst hconfig hen hrot
  obtain ⟨s', hexec⟩ := exec_next (dispatchKey s.config x a b) { s with cmds := ps }
  obtain ⟨hrsp, -⟩ := exec_rsp_rot hexec
  rw [response_dispatchKey_alpha (s := { s with cmds := ps }) hx, letterRsp_eq_substitute] at hrsp
  exact ⟨s', (step_of_decode hwf hc (decode_of_cmd hcmd)).trans hexec, hrsp⟩

/-- Settles O41: both steps forward the substitute of the same letter under the same configuration, EN and ROT. -/
theorem substitutionDependsOnEnAndRotOnly : Obligations.SubstitutionDependsOnEnAndRotOnly := by
  intro s t p p' ps ps' x a a' b b' hwf hconfig hen hrot hcs hct hcmd hcmd' hx
  obtain ⟨s', hstep, hrsp⟩ := step_letter_forwards_substitute hwf rfl rfl rfl hcs hcmd hx
  obtain ⟨t', hstep', hrsp'⟩ := step_letter_forwards_substitute hwf hconfig.symm hen.symm hrot.symm hct hcmd' hx
  exact ⟨s', t', _, _, hstep, hstep', hrsp, hrsp'⟩

end Sys2Proof
end

section
/-! PROOFS. Which items decode, from their numbers alone, and the runs over streams of legal items (30_encoding.md R79,
70_reset_and_hazards.md R194). -/

namespace Sys2Proof

open Sys2Proof.Machine Sys2Proof.Claims

/-! ### What is no command -/

/-- The command of a word is one of the configuration unless the word is a KEY word whose symbol is too wide. -/
theorem fits_of_decodeCmd_iff {c : Config} {w : CmdWord} {cmd : Cmd} (h : decodeCmd w = some cmd) :
    cmd.fits c = true ↔ ¬ (w.toNat / 2 ^ 32 = 0 ∧ 2 ^ c.symW ≤ w.toNat % 2 ^ 8) := by
  obtain ⟨hop, rfl⟩ | ⟨hop, -, rfl⟩ | ⟨hop, -, rfl⟩ := decodeCmd_cases h <;> rw [CmdWord.op_eq_iff.mp hop]
  · simp [Cmd.fits]
  · simp [Cmd.fits]
  · simp [Cmd.fits, CmdWord.symbol_toNat]

/-- The decoder refuses exactly what is no command of the configuration (R79, R70), whatever SYM_W is. -/
theorem decode_eq_none_iff_noCommand {c : Config} {p : Presented} : p.decode c = none ↔ noCommand c p := by
  rw [decode_eq_none]
  match p with
  | .word w =>
    rw [noCommand, reserved_iff_decodeCmd]
    cases hd : decodeCmd w with
    | none => simp [Presented.cmd, hd]
    | some cmd => simp [Presented.cmd, hd, ← not_iff_not, fits_of_decodeCmd_iff hd]
  | .command (.seed v) => simp [Presented.cmd, Cmd.fits, noCommand]
  | .command .next => simp [Presented.cmd, Cmd.fits, noCommand]
  | .command (.key x a b) => simp [Presented.cmd, Cmd.fits, noCommand]

/-! ### Streams of legal items (R194) -/

/-- Every item waiting is a command of a well-formed configuration. -/
def LegalStream (s : State) : Prop := s.config.WF ∧ ∀ p ∈ s.cmds, ¬ noCommand s.config p

/-- No step writes the configuration, and every step leaves a tail of the stream. -/
theorem step_config_cmds {s t : State} (h : step s = .next t) : t.config = s.config ∧ t.cmds <:+ s.cmds := by
  obtain ⟨-, ⟨-, rfl⟩ | ⟨p, ps, i, hc, -, hexec⟩⟩ := step_next_cases h
  · exact ⟨rfl, List.suffix_refl _⟩
  · obtain ⟨hconfig, hcmds, -⟩ := exec_frame hexec
    exact ⟨hconfig, by rw [hcmds, hc]; exact List.suffix_cons p ps⟩

/-- With a legal stream presented the step is not refused: it accepts the first item, or idles when none is left. -/
theorem step_of_legalStream {s : State} (h : LegalStream s) : ∃ t, step s = .next t := by
  obtain ⟨hwf, hlegal⟩ := h
  cases hc : s.cmds with
  | nil => exact ⟨s, step_nil hwf hc⟩
  | cons p ps =>
    have hp : ¬ noCommand s.config p := hlegal p (hc ▸ List.mem_cons_self)
    exact (step_of_presented hwf hc).2 (mt decode_eq_none_iff_noCommand.mp hp)

/-- What a step leaves of a legal stream is a legal stream. -/
theorem step_keeps_legalStream {s t : State} (h : LegalStream s) (hstep : step s = .next t) : LegalStream t := by
  obtain ⟨hwf, hlegal⟩ := h
  obtain ⟨hconfig, hcmds⟩ := step_config_cmds hstep
  rw [LegalStream, hconfig]
  exact ⟨hwf, fun p hp => hlegal p (hcmds.subset hp)⟩

/-- A legal stream is safe to run for any number of steps: those past its end idle. -/
theorem safeFor_of_legalStream {s : State} (h : LegalStream s) (k : Nat) : SafeFor k s := by
  induction k generalizing s with
  | zero => exact ⟨s, run_zero s⟩
  | succ k ih =>
    obtain ⟨t, hstep⟩ := step_of_legalStream h
    obtain ⟨s', hrun⟩ := ih (step_keeps_legalStream h hstep)
    exact ⟨s', run_succ_next_iff.mpr ⟨t, hstep, hrun⟩⟩

/-- A run no longer than its stream has taken one item and given one response a step. -/
theorem run_next_within_stream {k : Nat} {s s' : State} (h : run k s = .next s') (hk : k ≤ s.cmds.length) :
    s'.cmds = s.cmds.drop k ∧ s'.rsps.length = s.rsps.length + k := by
  obtain ⟨done, new, hcmds, hrsps, hlen, hmin⟩ := run_next_answers h
  have hnew : new.length = k := hmin.trans (Nat.min_eq_left hk)
  exact ⟨by rw [hcmds, List.drop_left' (hlen.trans hnew)], by rw [hrsps, List.length_append, hnew]⟩

/-- Settles O43: a legal stream is safe for `k` steps, and what such a run has taken and answered is known; at the end of
the stream no item is left. -/
theorem legalStreamIsAnsweredToTheEnd : Obligations.LegalStreamIsAnsweredToTheEnd := by
  intro s hwf hlegal
  have answered (k : Nat) (hk : k ≤ s.cmds.length) : ∃ s' : State, run k s = .next s' ∧ s'.cmds = s.cmds.drop k ∧
      s'.rsps.length = s.rsps.length + k := by
    obtain ⟨s', hrun⟩ := safeFor_of_legalStream ⟨hwf, hlegal⟩ k
    exact ⟨s', hrun, run_next_within_stream hrun hk⟩
  refine ⟨answered, ?_⟩
  simpa only [List.drop_length] using answered s.cmds.length (Nat.le_refl _)

end Sys2Proof
end

section
/-! PROOFS. Encoding and decoding undo each other: for instructions and their commands, for commands and their words, and
for words and their bytes (30_encoding.md sections 1 to 8, 20_memory.md R53). -/

namespace Sys2Proof

open Sys2Proof.Machine

/-! ### Instructions and their commands -/

/-- What the check of an OTHER instruction's symbol says; a release has the same check. -/
theorem otherPress_wf_iff {c : Config} {x : Nat} {b : Bool} :
    (Instr.otherPress x b).wf c = true ↔ x < 2 ^ c.symW ∧ classify c x = .other := by
  rw [Instr.wf, Bool.and_eq_true, decide_eq_true_iff, beq_iff_eq]

theorem key_fits_iff {c : Config} {x : Nat} {a : Action} {b : Bool} :
    (Cmd.key x a b).fits c = true ↔ x < 2 ^ c.symW := decide_eq_true_iff

/-- The instruction of a well-formed instruction's command is that instruction: each keycode is of its own class. -/
theorem toInstr_toCmd {c : Config} {i : Instr} (h : c.WF) (hi : i.wf c = true) : (i.toCmd c).toInstr c = i := by
  cases i with
  | seed | next => rfl
  | togglePress rest => exact dispatchKey_toggle (classify_toggleKey c) .press rest
  | toggleRelease rest => exact dispatchKey_toggle (classify_toggleKey c) .release rest
  | alphaPress letter rest => exact (dispatchKey_symbolOf h letter rest).1
  | alphaRelease letter rest => exact (dispatchKey_symbolOf h letter rest).2
  | reseedPress rest => exact dispatchKey_reseed (classify_reseedKey h) .press rest
  | reseedRelease rest => exact dispatchKey_reseed (classify_reseedKey h) .release rest
  | otherPress x rest => exact dispatchKey_other (otherPress_wf_iff (b := rest).mp hi).2 .press rest
  | otherRelease x rest => exact dispatchKey_other (otherPress_wf_iff (b := rest).mp hi).2 .release rest

/-- The command of a well-formed instruction is one of the configuration: R7 keeps every keycode within SYM_W bits. -/
theorem fits_toCmd {c : Config} {i : Instr} (h : c.WF) (hi : i.wf c = true) : (i.toCmd c).fits c = true := by
  obtain ⟨-, htoggle, hreseed, -⟩ := Config.wf_iff.mp h
  cases i with
  | seed | next => rfl
  | togglePress | toggleRelease => exact key_fits_iff.mpr htoggle
  | alphaPress letter | alphaRelease letter => exact key_fits_iff.mpr (symbolOf_lt c letter)
  | reseedPress | reseedRelease => exact key_fits_iff.mpr hreseed
  | otherPress x rest | otherRelease x rest => exact key_fits_iff.mpr (otherPress_wf_iff (b := rest).mp hi).1

/-- The command of a key event's instruction is that key event: its class is known, so its keycode is. -/
theorem toCmd_dispatchKey {c : Config} (h : c.WF) (x : Nat) (a : Action) (b : Bool) :
    (dispatchKey c x a b).toCmd c = .key x a b := by
  cases hx : classify c x with
  | toggle => rw [dispatchKey_toggle hx, classify_eq_toggle.mp hx]; cases a <;> rfl
  | reseed => rw [dispatchKey_reseed hx, eq_of_classify_reseed hx]; cases a <;> rfl
  | alpha => rw [dispatchKey_alpha hx]; cases a <;> exact congrArg (Cmd.key · _ b) (symbolOf_indexOf h hx)
  | other => rw [dispatchKey_other hx]; cases a <;> rfl

/-- A key event with a symbol of SYM_W bits is dispatched to a well-formed instruction. -/
theorem wf_dispatchKey {c : Config} {x : Nat} (hlt : x < 2 ^ c.symW) (a : Action) (b : Bool) :
    (dispatchKey c x a b).wf c = true := by
  cases hx : classify c x with
  | toggle => rw [dispatchKey_toggle hx]; cases a <;> rfl
  | reseed => rw [dispatchKey_reseed hx]; cases a <;> rfl
  | alpha => rw [dispatchKey_alpha hx]; cases a <;> rfl
  | other => rw [dispatchKey_other hx]; cases a <;> exact otherPress_wf_iff (b := b).mpr ⟨hlt, hx⟩

theorem toCmd_toInstr {c : Config} (h : c.WF) (cmd : Cmd) : (cmd.toInstr c).toCmd c = cmd := by
  cases cmd with
  | seed | next => rfl
  | key x a b => exact toCmd_dispatchKey h x a b

theorem wf_toInstr {c : Config} {cmd : Cmd} (hf : cmd.fits c = true) : (cmd.toInstr c).wf c = true := by
  cases cmd with
  | seed | next => rfl
  | key x a b => exact wf_dispatchKey (key_fits_iff.mp hf) a b

/-- The decoder answers well-formed instructions only. -/
theorem wf_of_decode {c : Config} {p : Presented} {i : Instr} (hd : p.decode c = some i) : i.wf c = true := by
  obtain ⟨cmd, hcmd, rfl⟩ := decode_eq_some hd
  exact wf_toInstr (fits_of_cmd hcmd)

/-- With symbols of at most eight bits every command of the configuration has a word. -/
theorem hasWord_of_fits {c : Config} (h8 : c.symW ≤ 8) {cmd : Cmd} (hf : cmd.fits c = true) : cmd.hasWord = true := by
  cases cmd with
  | seed | next => rfl
  | key x a b => exact decide_eq_true (lt_word_of_symW h8 (key_fits_iff.mp hf))

/-- Settles O1: an instruction's command is one of the configuration and is dispatched back to the instruction. -/
theorem decodeOfEncodeIsTheInstruction : Obligations.DecodeOfEncodeIsTheInstruction := by
  intro c i hwf hi
  have hfits := fits_toCmd hwf hi
  have hback := toInstr_toCmd hwf hi
  refine ⟨fun hword => ?_, fun h8 => hasWord_of_fits h8 hfits, ?_⟩
  · exact (decode_encodeCmd hfits hword).trans (congrArg some hback)
  · exact (decode_of_cmd (cmd_present hfits)).trans (congrArg some hback)

/-- Settles O2: an item that decodes is a command of the configuration, which its instruction's command is. -/
theorem decodedWordIsTheEncoding : Obligations.DecodedWordIsTheEncoding := by
  intro c i hwf
  refine ⟨fun w hd => ⟨wf_of_decode hd, ?_⟩, fun cmd hd => ⟨wf_of_decode hd, ?_⟩⟩
  · obtain ⟨cmd, hcmd, rfl⟩ := decode_eq_some hd
    rw [encode, toCmd_toInstr hwf]
    exact encodeCmd_of_decodeCmd (cmd_word.mp hcmd).1
  · obtain ⟨cmd', hcmd, rfl⟩ := decode_eq_some hd
    rw [toCmd_toInstr hwf]
    exact (cmd_command.mp hcmd).1

/-- Settles O8: the decoder run on each word. -/
theorem sampleWordsDecode : Obligations.SampleWordsDecode := by
  unfold Obligations.SampleWordsDecode
  decide

/-! ### Packing (R53) -/

theorem length_bytesOfNat (n v : Nat) : (bytesOfNat n v).length = n := by
  induction n generalizing v with
  | zero => rfl
  | succ n ih => rw [bytesOfNat, List.length_cons, ih]

/-- A number that fits `n` bytes is read back from them. -/
theorem natOfBytes_bytesOfNat {n v : Nat} (h : v < 256 ^ n) : natOfBytes (bytesOfNat n v) = v := by
  induction n generalizing v with
  | zero => rw [bytesOfNat, natOfBytes]; omega
  | succ n ih =>
    have hv : v / 256 < 256 ^ n := Nat.div_lt_of_lt_mul (by rwa [← pow_succ'])
    rw [bytesOfNat, natOfBytes, ih hv, BitVec.toNat_ofNat]
    omega

/-- A list of bytes is the list its number is packed into. -/
theorem bytesOfNat_natOfBytes (bs : List Byte) : bytesOfNat bs.length (natOfBytes bs) = bs := by
  induction bs with
  | nil => rfl
  | cons b bs ih =>
    have hb := b.isLt
    have hhead : BitVec.ofNat 8 (b.toNat + 256 * natOfBytes bs) = b := by
      apply BitVec.eq_of_toNat_eq
      rw [BitVec.toNat_ofNat]
      omega
    have htail : (b.toNat + 256 * natOfBytes bs) / 256 = natOfBytes bs := by omega
    rw [natOfBytes, List.length_cons, bytesOfNat, hhead, htail, ih]

theorem natOfBytes_packCmd (w : CmdWord) : natOfBytes (packCmd w) = w.toNat :=
  natOfBytes_bytesOfNat (w.isLt.trans (by decide))

theorem unpackCmd_packCmd (w : CmdWord) : unpackCmd (packCmd w) = some w := by
  rw [unpackCmd, natOfBytes_packCmd, if_pos ⟨length_bytesOfNat 5 _, w.isLt⟩, BitVec.ofNat_toNat, BitVec.setWidth_eq]

/-- Only the five bytes of a word unpack to it. -/
theorem packCmd_of_unpackCmd {bs : List Byte} {w : CmdWord} (h : unpackCmd bs = some w) : packCmd w = bs := by
  unfold unpackCmd at h
  split at h
  case isTrue hbs =>
    obtain ⟨hlen, hlt⟩ := hbs
    rw [← Option.some.inj h, packCmd, BitVec.toNat_ofNat, Nat.mod_eq_of_lt hlt, ← hlen, bytesOfNat_natOfBytes]
  case isFalse => cases h

/-- The first byte of a packed word is its bits [7:0]. -/
theorem head_packCmd (w : CmdWord) : (packCmd w).head? = some (BitVec.ofNat 8 (w.toNat % 256)) := by
  have hbyte : BitVec.ofNat 8 w.toNat = BitVec.ofNat 8 (w.toNat % 256) := by
    apply BitVec.eq_of_toNat_eq
    rw [BitVec.toNat_ofNat, BitVec.toNat_ofNat, Nat.mod_mod]
  exact congrArg some hbyte

/-- Settles O9: a word is a number of its bytes' range, and bytes are those of their number. -/
theorem packedWordsRoundTrip : Obligations.PackedWordsRoundTrip :=
  ⟨fun w => ⟨unpackCmd_packCmd w, length_bytesOfNat 5 _, head_packCmd w⟩, fun _ _ => packCmd_of_unpackCmd,
    fun r => ⟨natOfBytes_bytesOfNat (r.isLt.trans (by decide)), length_bytesOfNat 3 _⟩⟩

end Sys2Proof
end

section
/-! PROOFS. The invariant of every step, what ROT can be after a draw, and the states reset and a run reach (10_state.md R38,
70_reset_and_hazards.md R191 to R194). -/

namespace Sys2Proof

open Sys2Proof.Machine

/-! ### Legal responses (R78, R81, R104, R133) -/

/-- What makes a response legal, part by part. -/
theorem Rsp.legal_iff {c : Config} {r : Rsp} : r.legal c = true ↔
    (∀ d, r.draw = some d → 1 ≤ d ∧ d ≤ 25) ∧
    (∀ e, r.fwd = some e → e.symbol < 2 ^ c.symW ∧ classify c e.symbol ≠ .toggle) ∧
    (r.consumed = true → r.draw = none ∧ ∀ e, r.fwd = some e → classify c e.symbol = .alpha) := by
  simp only [Rsp.legal, Bool.and_eq_true, Bool.or_eq_true, Bool.not_eq_true', Option.all_eq_true, decide_eq_true_iff,
    bne_iff_ne, beq_iff_eq, Option.isNone_iff_eq_none, and_assoc, imp_iff_not_or, Bool.not_eq_true]

/-- The keycode a letter event forwards is a letter's, whatever EN is. -/
theorem classify_letterRsp_fwd {l : Letter} {a : Action} {s : State} (h : s.config.WF) {e : KeyEvent}
    (he : (letterRsp l a s).fwd = some e) : classify s.config e.symbol = .alpha := by
  unfold letterRsp at he
  split at he <;> cases he <;> exact classify_symbolOf h _

/-- What a well-formed instruction forwards is not the toggle key (R133). -/
theorem response_fwd_ne_toggle {i : Instr} {s : State} (h : s.config.WF) (hi : i.wf s.config = true) {e : KeyEvent}
    (he : (i.response s).fwd = some e) : classify s.config e.symbol ≠ .toggle := by
  cases i with
  | alphaPress | alphaRelease => simp [classify_letterRsp_fwd h he]
  | reseedPress | reseedRelease => cases he; simp [classify_reseedKey h]
  | otherPress x rest | otherRelease x rest => cases he; simp [(otherPress_wf_iff (b := rest).mp hi).2]
  | _ => cases he

/-- What is consumed draws nothing, and is answered by a letter or by nothing (R81). -/
theorem response_of_consumed {i : Instr} {s : State} (h : s.config.WF) (hq : (i.response s).consumed = true) :
    (i.response s).draw = none ∧ ∀ e, (i.response s).fwd = some e → classify s.config e.symbol = .alpha := by
  cases i with
  | togglePress | toggleRelease => exact ⟨rfl, fun e he => by cases he⟩
  | alphaPress | alphaRelease => exact ⟨letterRsp_draw .., fun e he => classify_letterRsp_fwd h he⟩
  | _ => cases hq

/-- Every response of a well-formed instruction is legal. -/
theorem response_legal {i : Instr} {s : State} (h : s.config.WF) (hi : i.wf s.config = true) :
    (i.response s).legal s.config = true := by
  refine Rsp.legal_iff.mpr ⟨fun d hd => ?_, fun e he => ⟨response_fwd_lt h hi he, response_fwd_ne_toggle h hi he⟩,
    response_of_consumed h⟩
  rw [response_draw] at hd
  split at hd <;> cases hd
  exact draw_rot_bounds s

/-! ### The invariant (R38) -/

/-- Every instruction gives its response, on the port and to the environment. -/
theorem exec_answers {i : Instr} {s t : State} (h : exec i s = .next t) :
    t.rsp = some (i.response s) ∧ t.rsps = s.rsps ++ [i.response s] := by
  obtain ⟨-, -, r, hrsp, hrsps⟩ := exec_frame h
  obtain ⟨hresponse, -⟩ := exec_rsp_rot h
  obtain rfl : r = i.response s := Option.some.inj (hrsp.symm.trans hresponse)
  exact ⟨hrsp, hrsps⟩

/-- ROT stays at most 25: a draw is, and nothing else writes it. -/
theorem exec_rot_le {i : Instr} {s t : State} (h : exec i s = .next t) (hrot : s.rot ≤ 25) : t.rot ≤ 25 := by
  obtain ⟨-, hwritten⟩ := exec_rsp_rot h
  rw [hwritten]
  split
  · exact (draw_rot_bounds s).2
  · exact hrot

/-- A well-formed instruction keeps the invariant. -/
theorem exec_keeps_stateInv {i : Instr} {s t : State} (hs : StateInv s) (hi : i.wf s.config = true)
    (h : exec i s = .next t) : StateInv t := by
  obtain ⟨hwf, hrot, -, hlegal, -⟩ := hs
  obtain ⟨hconfig, -⟩ := exec_frame h
  obtain ⟨hrsp, hrsps⟩ := exec_answers h
  have hle := exec_rot_le h hrot
  rw [StateInv, hconfig, hrsp, hrsps]
  refine ⟨hwf, hle, lt_rotW hwf hle, fun r hr => ?_, .inr List.getLast?_concat⟩
  obtain hold | hnew := List.mem_append.mp hr
  · exact hlegal r hold
  · rw [List.mem_singleton.mp hnew]
    exact response_legal hwf hi

/-- Settles O57: a step idles, or runs an instruction the decoder answered, which is well-formed. -/
theorem stepKeepsTheInvariant : Obligations.StepKeepsTheInvariant := by
  intro s s' hs hstep
  obtain ⟨-, ⟨-, rfl⟩ | ⟨p, ps, i, -, hd, hexec⟩⟩ := step_next_cases hstep
  · exact hs
  · exact exec_keeps_stateInv (s := { s with cmds := ps }) hs (wf_of_decode hd) hexec

/-- Settles O56: the register values of reset, with R7's bound on ROT_RESET, and nothing answered yet. -/
theorem resetSatisfiesTheInvariant : Obligations.ResetSatisfiesTheInvariant := by
  intro c ps hwf
  obtain ⟨-, -, -, -, -, -, hrot, -⟩ := Config.wf_iff.mp hwf
  exact ⟨hwf, hrot, lt_rotW hwf hrot, fun r hr => absurd hr List.not_mem_nil, .inl rfl⟩

/-- What every step keeps, every run keeps. -/
theorem run_keeps {P : State → Prop} (hP : ∀ s s', P s → step s = .next s' → P s') {k : Nat} {s s' : State} (hs : P s)
    (h : run k s = .next s') : P s' := by
  induction k generalizing s with
  | zero => cases h; exact hs
  | succ k ih =>
    obtain ⟨u, hstep, hrun⟩ := run_succ_next_iff.mp h
    exact ih (hP s u hs hstep) hrun

/-- Settles O59: the invariant holds at reset and every step keeps it. -/
theorem reachableStatesSatisfyTheInvariant : Obligations.ReachableStatesSatisfyTheInvariant := by
  rintro s ⟨c, ps, k, hwf, hrun⟩
  exact run_keeps stepKeepsTheInvariant (resetSatisfiesTheInvariant c ps hwf) hrun

/-! ### The range of a drawn rotation (R38 I-b) -/

/-- An instruction leaves ROT in 1 to 25 if it was there or if the instruction draws. -/
theorem exec_rot_bounds {i : Instr} {s t : State} (h : exec i s = .next t)
    (hs : (1 ≤ s.rot ∧ s.rot ≤ 25) ∨ i.draws s.config = true) : 1 ≤ t.rot ∧ t.rot ≤ 25 := by
  obtain ⟨-, hrot⟩ := exec_rsp_rot h
  rw [hrot]
  split
  · exact draw_rot_bounds s
  · exact hs.resolve_right ‹_›

/-- An instruction that changes ROT draws, and answers the new value. -/
theorem exec_rot_changed {i : Instr} {s t : State} (h : exec i s = .next t) (hne : t.rot ≠ s.rot) :
    i.draws s.config = true ∧ (i.response s).draw = some t.rot := by
  obtain ⟨-, hrot⟩ := exec_rsp_rot h
  by_cases hd : i.draws s.config = true
  · rw [if_pos hd] at hrot
    exact ⟨hd, by rw [response_draw, if_pos hd, hrot]⟩
  · rw [if_neg hd] at hrot
    exact absurd hrot hne

/-- Settles O58: both clauses by what an instruction does to ROT; an idle step changes nothing. -/
theorem drawnRotationStaysFrom1To25 : Obligations.DrawnRotationStaysFrom1To25 := by
  intro s s' hstep
  obtain ⟨-, ⟨hnil, rfl⟩ | ⟨p, ps, i, hc, hd, hexec⟩⟩ := step_next_cases hstep
  · refine ⟨?_, fun hzero hne => absurd hzero hne⟩
    rintro (hrange | ⟨p, ps, i, hc, -⟩)
    · exact hrange
    · exact absurd (hnil.symm.trans hc) (List.cons_ne_nil p ps).symm
  · refine ⟨fun hs => exec_rot_bounds hexec (hs.imp_right ?_), fun hzero hne => ?_⟩
    · rintro ⟨p', ps', i', hc', hd', hdraws⟩
      obtain ⟨rfl, rfl⟩ := List.cons.inj (hc.symm.trans hc')
      obtain rfl := Option.some.inj (hd.symm.trans hd')
      exact hdraws
    · obtain ⟨hrsp, -⟩ := exec_rsp_rot hexec
      exact ⟨_, hrsp, (exec_rot_changed hexec (ne_of_ne_of_eq hne hzero.symm)).2⟩

/-! ### Reset (R190, R191) -/

/-- Settles O53: the reference configuration's values, and that it is well-formed. -/
theorem machineResetsToTheReferenceConfiguration : Obligations.MachineResetsToTheReferenceConfiguration :=
  ⟨rfl, referenceConfig_wf, rfl, rfl, rfl, rfl, rfl, rfl, rfl, rfl⟩

/-- A pulse of `rst` leaves the registers as reset does (R190). -/
theorem sameRegisters_pulseReset (s : State) : Claims.sameRegisters s.pulseReset (State.resetOf s.config) :=
  ⟨rfl, rfl, rfl, rfl⟩

/-- Settles O54: the registers after a pulse, the fields it keeps and the ports it shows. -/
theorem resetPulseRestoresTheRegisters : Obligations.ResetPulseRestoresTheRegisters := fun s =>
  ⟨sameRegisters_pulseReset s, State.pulseReset_config s, State.pulseReset_cmds s, State.pulseReset_rsps s,
    rfl, rfl, rfl, rfl⟩

end Sys2Proof
end

section
/-! PROOFS. What the spec infers of the generator: any arithmetic, the inverse, how often each value is drawn (40_prng.md R100,
R109, R111). -/

namespace Sys2Proof

open Sys2Proof.Machine

/-! ### The advance in wrapping arithmetic, and its inverse (R100, R109) -/

/-- The advance in 32-bit arithmetic. -/
theorem lcgStep_eq_mul_add (x : SeedWord) : lcgStep x = 12345#32 + 1103515245#32 * x := by
  apply BitVec.eq_of_toNat_eq
  simp only [lcgStep_toNat, BitVec.toNat_add, BitVec.toNat_mul, BitVec.toNat_ofNat, lcgC, lcgA]
  omega

/-- Settles O17: neither 64 bits nor 32 cut off anything of the low 32 bits of the sum. -/
theorem advanceIsTheSameInAnyArithmetic : Obligations.AdvanceIsTheSameInAnyArithmetic := by
  refine fun x => ⟨?_, lcgStep_eq_mul_add x⟩
  rw [lcgStep_toNat]
  simp only [lcgC, lcgA]
  omega

/-- The inverse of the advance (95_test_vectors.md section 3): the factor is the multiplier's inverse modulo 2^32. -/
def lcgStepBack (x : SeedWord) : SeedWord := 4005161829#32 * (x - 12345#32)

/-- The two factors cancel. -/
theorem lcg_factors_cancel : 1103515245#32 * 4005161829#32 = 1#32 := by decide

theorem lcgStep_lcgStepBack (x : SeedWord) : lcgStep (lcgStepBack x) = x := by
  rw [lcgStep_eq_mul_add, lcgStepBack, ← BitVec.mul_assoc, lcg_factors_cancel, BitVec.one_mul, add_sub_cancel]

theorem lcgStepBack_lcgStep (x : SeedWord) : lcgStepBack (lcgStep x) = x := by
  rw [lcgStep_eq_mul_add, lcgStepBack, add_sub_cancel_left, ← BitVec.mul_assoc, BitVec.mul_comm 4005161829#32,
    lcg_factors_cancel, BitVec.one_mul]

theorem lcgStep_bijective : Function.Bijective lcgStep :=
  Function.bijective_iff_has_inverse.mpr ⟨lcgStepBack, lcgStepBack_lcgStep, lcgStep_lcgStepBack⟩

/-- Settles O20: the inverse on both sides; the fixed point is excluded by the low bit. -/
theorem advanceIsABijectionWithoutFixedPoint : Obligations.AdvanceIsABijectionWithoutFixedPoint :=
  ⟨lcgStep_bijective, lcgStep_ne_self, lcgStep_lcgStepBack, fun s => lcgStep_ne_self s.seed⟩

/-! ### How often each value is drawn (R111) -/

/-- The value drawn from a seed with the upper half `h`. -/
theorem reduce_of_upperHalf {h : Nat} (hh : h < 65536) : reduce (BitVec.ofNat 32 (h * 65536)) = h % 25 + 1 := by
  have hseed : (BitVec.ofNat 32 (h * 65536)).toNat = h * 65536 := by
    rw [BitVec.toNat_ofNat]
    omega
  rw [reduce_eq_drawn, hseed, Claims.drawn, Nat.mul_div_cancel _ (by decide)]

/-- The upper halves a value is drawn from are those of one remainder modulo 25. -/
theorem reduce_of_upperHalf_eq_iff {h d : Nat} (hh : h < 65536) (hd : 1 ≤ d) (hd' : d ≤ 25) :
    reduce (BitVec.ofNat 32 (h * 65536)) = d ↔ h ≡ d - 1 [MOD 25] := by
  rw [reduce_of_upperHalf hh, Nat.ModEq]
  omega

/-- Settles O21: 65536 is 25 times 2621 and 11, so the first eleven remainders occur once more. -/
theorem drawCountsOverUpperHalves : Obligations.DrawCountsOverUpperHalves := by
  intro d hd hd'
  calc ((List.range 65536).filter fun h => reduce (BitVec.ofNat 32 (h * 65536)) == d).length
      = (List.range 65536).countP fun h => reduce (BitVec.ofNat 32 (h * 65536)) == d := List.countP_eq_length_filter.symm
    _ = Nat.count (· ≡ d - 1 [MOD 25]) 65536 := by
        refine List.countP_congr fun h hmem => ?_
        rw [beq_iff_eq, decide_eq_true_iff]
        exact reduce_of_upperHalf_eq_iff (List.mem_range.mp hmem) hd hd'
    _ = 65536 / 25 + if (d - 1) % 25 < 65536 % 25 then 1 else 0 := Nat.count_modEq_card _ (by decide) _
    _ = if d ≤ 11 then 2622 else 2621 := by
        have hcond : (d - 1) % 25 < 65536 % 25 ↔ d ≤ 11 := by omega
        simp only [hcond]
        split <;> rfl

end Sys2Proof
end

section
/-! PROOFS. What the spec infers of the transformer: its inverse, the substitution as a bijection, fixed points and
self-inverse rotations (42_rotn_transformer.md R153 to R157). -/

namespace Sys2Proof

open Sys2Proof.Machine

/-! ### The inverse (R153, R157) -/

theorem unrotn_val (l : Letter) (rot : Nat) : (unrotn l rot).val = (l.val + 26 - (13 + rot) % 26) % 26 := rfl

/-- The inverse undoes the transform, for every rotation. -/
theorem unrotn_rotn (l : Letter) (rot : Nat) : unrotn (rotn l rot) rot = l := by
  have hl := l.isLt
  apply Fin.ext
  rw [unrotn_val, rotn_val]
  omega

theorem rotn_unrotn (l : Letter) (rot : Nat) : rotn (unrotn l rot) rot = l := by
  have hl := l.isLt
  apply Fin.ext
  rw [rotn_val, unrotn_val]
  omega

/-- The inverse in R157's second form. -/
theorem unrotn_val_eq (l : Letter) (rot : Nat) : (unrotn l rot).val = (l.val + 13 + 26 - rot % 26) % 26 := by
  rw [unrotn_val]
  omega

theorem effectiveShift_eq_mod (rot : Nat) : effectiveShift rot = (13 + rot) % 26 := rfl

/-- One conditional subtraction computes the effective shift of R150's range. -/
theorem effectiveShift_eq {rot : Nat} (hrot : rot ≤ 31) :
    effectiveShift rot = if 13 + rot ≥ 26 then 13 + rot - 26 else 13 + rot := by
  rw [effectiveShift_eq_mod]
  split <;> omega

/-- One conditional subtraction adds the effective shift to an index. -/
theorem rotn_val_eq_add_effectiveShift (l : Letter) (rot : Nat) : (rotn l rot).val =
    if l.val + effectiveShift rot ≥ 26 then l.val + effectiveShift rot - 26 else l.val + effectiveShift rot := by
  have hl := l.isLt
  rw [rotn_val, effectiveShift_eq_mod]
  split <;> omega

/-- Settles O51: the inverse on both sides and in both forms; the two stages by one lemma each. -/
theorem inverseAndTwoStageForms : Obligations.InverseAndTwoStageForms := by
  intro l rot hrot
  refine ⟨unrotn_rotn l rot, rotn_unrotn l rot, unrotn_val_eq l rot, effectiveShift_eq hrot, ?_⟩
  rw [← effectiveShift_eq hrot]
  exact rotn_val_eq_add_effectiveShift l rot

/-! ### The substitution (R154, R155) -/

/-- Two letters have two keycodes. -/
theorem symbolOf_inj {c : Config} (h : c.WF) {l l' : Letter} : symbolOf c l = symbolOf c l' ↔ l = l' := by
  rw [symbolOf_eq h, symbolOf_eq h, Nat.add_left_cancel_iff, Fin.val_inj]

/-- Settles O49: the transform has an inverse, and a letter's keycode is its index's. -/
theorem substitutionIsABijectionOfLetters : Obligations.SubstitutionIsABijectionOfLetters := by
  refine fun c rot hwf => ⟨fun l l' heq => ?_, fun y hy => ⟨unrotn (indexOf c y hy) rot, ?_⟩⟩
  · have hrotn : rotn l rot = rotn l' rot := (symbolOf_inj hwf).mp heq
    rw [← unrotn_rotn l rot, hrotn, unrotn_rotn]
  · rw [rotn_unrotn, symbolOf_indexOf hwf]

/-- Within R150's range a letter stays itself exactly under rotation 13: only then is the shift a multiple of 26. -/
theorem rotn_eq_self_iff {rot : Nat} (hrot : rot ≤ 31) (l : Letter) : rotn l rot = l ↔ rot = 13 := by
  have hl := l.isLt
  rw [← Fin.val_inj, rotn_val]
  omega

/-- Within R150's range a rotation is its own inverse exactly when twice its shift is a multiple of 26. -/
theorem rotn_rotn_eq_self_iff {rot : Nat} (hrot : rot ≤ 31) (l : Letter) :
    rotn (rotn l rot) rot = l ↔ rot = 0 ∨ rot = 13 ∨ rot = 26 := by
  have hl := l.isLt
  rw [← Fin.val_inj, rotn_val, rotn_val]
  omega

/-- Settles O50: both conditions are the same for every letter, and there is a letter. -/
theorem fixedPointsAndSelfInverseRotations : Obligations.FixedPointsAndSelfInverseRotations := by
  intro c rot hwf hrot
  simp only [symbolOf_inj hwf, rotn_eq_self_iff hrot, rotn_rotn_eq_self_iff hrot, forall_const, true_and]

end Sys2Proof
end

section
/-! PROOFS. The step as a whole: what it runs and refuses, who writes which register, and that it reads nothing else
(10_state.md R20 to R22 and R37, 60_exceptions.md R183 and R184). -/

namespace Sys2Proof

open Sys2Proof.Machine Sys2Proof.Claims

/-! ### What a step runs, and its refusals (R183, R184) -/

/-- Settles O31: the instruction of a legal item; the idle step. -/
theorem stepRunsTheDecodedInstruction : Obligations.StepRunsTheDecodedInstruction :=
  ⟨fun _ _ _ _ hwf hc hd => step_of_decode hwf hc hd, fun _ hwf hnil => step_nil hwf hnil⟩

/-- A step that accepts an item runs the instruction of its command. -/
theorem step_of_cmd {s : State} {p : Presented} {ps : List Presented} {cmd : Cmd} (hwf : s.config.WF)
    (hc : s.cmds = p :: ps) (hcmd : p.cmd s.config = some cmd) :
    step s = exec (cmd.toInstr s.config) { s with cmds := ps } :=
  step_of_decode hwf hc (decode_of_cmd hcmd)

/-- Settles O32: the cases of a refused step, and that each of them is refused. -/
theorem refusalsAreExactlyTwo : Obligations.RefusalsAreExactlyTwo := by
  refine fun s r => ⟨fun h => (step_refused_cases h).imp_right ?_, ?_⟩
  · rintro ⟨hwf, p, ps, hc, hd, hr⟩
    exact ⟨hwf, p, ps, hc, decode_eq_none_iff_noCommand.mp hd, hr⟩
  · rintro (⟨hwf, rfl⟩ | ⟨hwf, p, ps, hc, hno, rfl⟩)
    · exact step_of_not_wf hwf
    · exact (step_of_presented hwf hc).1.mpr (decode_eq_none_iff_noCommand.mpr hno)

/-! ### The writers of the registers (R20 to R24) -/

section
variable {i : Instr} {s t : State} (h : exec i s = .next t)
include h

theorem exec_seed_changed (hne : t.seed ≠ s.seed) : i.commandClass = .seed ∨ i.draws s.config = true := by
  by_contra hno
  obtain ⟨hseed, hdraws⟩ := not_or.mp hno
  exact hne (by rw [exec_seed h hseed, if_neg hdraws])

theorem exec_en_changed (hne : t.en ≠ s.en) : i.commandClass = .toggleP := by
  by_contra hno
  exact hne (by rw [exec_en h, if_neg hno])

theorem exec_rest_changed (hne : t.rest ≠ s.rest) : i.commandClass ≠ .seed ∧ i.commandClass ≠ .next := by
  have hrest := exec_rest h
  cases i with
  | seed | next => exact absurd hrest hne
  | _ => exact ⟨CommandClass.noConfusion, CommandClass.noConfusion⟩

end

/-- Settles O35: an idle step writes nothing, and each register has its own lemma on the instruction that writes it. -/
theorem registersChangeOnlyByTheirWriters : Obligations.RegistersChangeOnlyByTheirWriters := by
  intro s s' hstep
  obtain ⟨-, ⟨hnil, rfl⟩ | ⟨p, ps, i, hc, hd, hexec⟩⟩ := step_next_cases hstep
  · exact ⟨rfl, by rw [hnil]; rfl, fun hchanged => by simp at hchanged⟩
  · obtain ⟨hconfig, hcmds, -⟩ := exec_frame hexec
    have hseed := exec_seed_changed (s := { s with cmds := ps }) hexec
    have hrot (hne : s'.rot ≠ s.rot) := (exec_rot_changed hexec hne).1
    have hen := exec_en_changed (s := { s with cmds := ps }) hexec
    have hrest := exec_rest_changed (s := { s with cmds := ps }) hexec
    exact ⟨hconfig, by rw [hcmds, hc]; rfl, fun _ => ⟨p, ps, i, hc, hd, hseed, hrot, hen, hrest⟩⟩

/-! ### No hidden state (R37) -/

section
variable {s t : State} (hconfig : s.config = t.config) (hregs : sameRegisters s t)
include hconfig hregs

/-- The response of an instruction is a function of the configuration and the registers. -/
theorem response_congr (i : Instr) : i.response s = i.response t := by
  cases s
  cases t
  obtain ⟨rfl, rfl, rfl, rfl⟩ := hregs
  cases hconfig
  cases i <;> rfl

/-- So are the registers an instruction leaves. -/
theorem exec_sameRegisters {i : Instr} {s' t' : State} (hs : exec i s = .next s') (ht : exec i t = .next t') :
    sameRegisters s' t' := by
  obtain ⟨hseed, hrot, hen, hrest⟩ := hregs
  have hdrawn : s.draw.rot = t.draw.rot := by rw [State.draw_rot, State.draw_rot, hseed]
  refine ⟨?_, ?_, ?_, ?_⟩
  · by_cases hload : i.commandClass = .seed
    · cases i with
      | seed value => cases hs; cases ht; rfl
      | _ => cases hload
    · rw [exec_seed hs hload, exec_seed ht hload, hconfig, hseed]
  · rw [(exec_rsp_rot hs).2, (exec_rsp_rot ht).2, hconfig, hrot, hdrawn]
  · rw [exec_en hs, exec_en ht, hen]
  · rw [exec_rest hs, exec_rest ht, hrest]

end

/-- Settles O39: both steps run the same instruction on states with the same configuration and registers. -/
theorem noHiddenState : Obligations.NoHiddenState := by
  intro s t s' p ps ps' hconfig hregs hcs hct hstep
  obtain ⟨hwf, ⟨hnil, -⟩ | ⟨q, qs, i, hc, hd, hexec⟩⟩ := step_next_cases hstep
  · exact absurd (hcs.symm.trans hnil) (List.cons_ne_nil p ps)
  · obtain ⟨rfl, rfl⟩ := List.cons.inj (hcs.symm.trans hc)
    obtain ⟨t', ht⟩ := exec_next i { t with cmds := ps' }
    have hstep' : step t = .next t' := (step_of_decode (hconfig ▸ hwf) hct (hconfig ▸ hd)).trans ht
    have hsame := exec_sameRegisters (s := { s with cmds := ps }) (t := { t with cmds := ps' }) hconfig hregs hexec ht
    have hrsp := response_congr (s := { s with cmds := ps }) (t := { t with cmds := ps' }) hconfig hregs i
    obtain ⟨hport, hport'⟩ := exec_answers hexec
    obtain ⟨htport, htport'⟩ := exec_answers ht
    rw [← hrsp] at htport htport'
    exact ⟨t', _, hstep', hsame, hport, htport, hport', htport'⟩

end Sys2Proof
end

section
/-! PROOFS. What a key event does by its class, what it hands the host, and the one table of the whole core
(41_cipher_engine.md R130, R132, R133, R135). -/

namespace Sys2Proof

open Sys2Proof.Machine Sys2Proof.Claims

/-! ### Key events by class -/

/-- Whether this edge of the reseed key draws at rest (R126, R127). -/
def edgeDraws (c : Config) (a : Action) : Bool := decide (a = .press) || c.reseedOnRelease

/-- The meaning of a reseed key event. -/
theorem exec_dispatchKey_reseed {s : State} {x : Nat} (hx : classify s.config x = .reseed) (a : Action) (b : Bool) :
    exec (dispatchKey s.config x a b) s = .next ((s.latchRest b).reseedEvent (edgeDraws s.config a) a) := by
  rw [dispatchKey_reseed hx]
  cases a <;> rfl

theorem response_dispatchKey_toggle {s : State} {x : Nat} (hx : classify s.config x = .toggle) (a : Action) (b : Bool) :
    (dispatchKey s.config x a b).response s = ⟨true, none, none⟩ := by
  rw [dispatchKey_toggle hx]
  cases a <;> rfl

theorem response_dispatchKey_reseed {s : State} {x : Nat} (hx : classify s.config x = .reseed) (a : Action) (b : Bool) :
    (dispatchKey s.config x a b).response s = reseedRsp (edgeDraws s.config a && b) a s := by
  rw [dispatchKey_reseed hx]
  cases a <;> rfl

theorem response_dispatchKey_other {s : State} {x : Nat} (hx : classify s.config x = .other) (a : Action) (b : Bool) :
    (dispatchKey s.config x a b).response s = ⟨false, some ⟨x, a⟩, none⟩ := by
  rw [dispatchKey_other hx]
  cases a <;> rfl

/-- A key event draws exactly when it is a reseed key event on a drawing edge with its rest bit 1 (R103). -/
theorem draws_dispatchKey (c : Config) (x : Nat) (a : Action) (b : Bool) :
    (dispatchKey c x a b).draws c = (classify c x == .reseed && (edgeDraws c a && b)) := by
  cases hx : classify c x with
  | toggle => rw [dispatchKey_toggle hx]; cases a <;> rfl
  | reseed => rw [dispatchKey_reseed hx]; cases a <;> rfl
  | alpha => rw [dispatchKey_alpha hx]; cases a <;> rfl
  | other => rw [dispatchKey_other hx]; cases a <;> rfl

/-! ### Pass-through and the host-visible stream (R132, R133) -/

/-- A key event that is neither the toggle key's nor a letter's with EN = 1 is forwarded as it stands. -/
theorem response_dispatchKey_passes {s : State} {x : Nat} (hwf : s.config.WF) (htoggle : classify s.config x ≠ .toggle)
    (hletter : s.en = false ∨ classify s.config x ≠ .alpha) (a : Action) (b : Bool) :
    ((dispatchKey s.config x a b).response s).consumed = false ∧
      ((dispatchKey s.config x a b).response s).fwd = some ⟨x, a⟩ := by
  cases hx : classify s.config x with
  | toggle => exact absurd hx htoggle
  | reseed =>
    rw [response_dispatchKey_reseed hx, eq_of_classify_reseed hx]
    exact ⟨rfl, rfl⟩
  | alpha =>
    have hen : s.en = false := hletter.resolve_right (not_not.mpr hx)
    rw [response_dispatchKey_alpha hx, letterRsp_of_off hen, symbolOf_indexOf hwf]
    exact ⟨rfl, rfl⟩
  | other =>
    rw [response_dispatchKey_other hx]
    exact ⟨rfl, rfl⟩

/-- The event of a KEY word, read off its number. -/
theorem keyEvent_eq_of_decodeCmd {w : CmdWord} {x : Nat} {a : Action} {b : Bool} (h : decodeCmd w = some (.key x a b)) :
    (⟨x, a⟩ : KeyEvent) = ⟨w.toNat % 2 ^ 8, if w.toNat / 2 ^ 8 % 2 = 1 then .press else .release⟩ := by
  obtain ⟨hx, ha, -⟩ := key_operands h
  rw [hx]
  cases a with
  | press => rw [if_pos (ha.mp rfl)]
  | release => rw [if_neg (mt ha.mpr Action.noConfusion)]

/-- Settles O37: the response passes the event through, and a word's event is in its bits. -/
theorem passThroughIsBitForBit : Obligations.PassThroughIsBitForBit := by
  intro s p ps x a b hwf hc hcmd htoggle hletter
  obtain ⟨t, ht⟩ := exec_next (dispatchKey s.config x a b) { s with cmds := ps }
  obtain ⟨hrsp, -⟩ := exec_answers ht
  obtain ⟨hconsumed, hfwd⟩ := response_dispatchKey_passes (s := { s with cmds := ps }) hwf htoggle hletter a b
  refine ⟨t, _, (step_of_cmd hwf hc hcmd).trans ht, hrsp, hconsumed, hfwd, ?_⟩
  rintro w rfl
  exact hfwd.trans (congrArg some (keyEvent_eq_of_decodeCmd (cmd_word.mp hcmd).1))

/-- An instruction hands the host what its response forwards. -/
theorem exec_hostStream {i : Instr} {s t : State} (h : exec i s = .next t) :
    t.hostStream = s.hostStream ++ (i.response s).fwd.toList := by
  rw [hostStream_of_rsps_append (exec_answers h).2]
  cases hfwd : (i.response s).fwd <;> simp [hfwd]

/-- What a key event other than the toggle key's forwards: its own symbol, or a letter in place of a letter. -/
theorem response_dispatchKey_fwd {s : State} {x : Nat} (hwf : s.config.WF) (hx : classify s.config x ≠ .toggle)
    (a : Action) (b : Bool) : ∃ y, ((dispatchKey s.config x a b).response s).fwd = some ⟨y, a⟩ ∧
      (y = x ∨ (s.en = true ∧ classify s.config x = .alpha ∧ classify s.config y = .alpha)) := by
  by_cases hletter : s.en = true ∧ classify s.config x = .alpha
  · obtain ⟨hen, halpha⟩ := hletter
    rw [response_dispatchKey_alpha halpha, letterRsp_of_on hen]
    exact ⟨_, rfl, .inr ⟨hen, halpha, classify_symbolOf hwf _⟩⟩
  · rw [not_and_or, Bool.not_eq_true] at hletter
    exact ⟨x, (response_dispatchKey_passes hwf hx hletter a b).2, .inl rfl⟩

/-- Settles O38: the host gets the event of the response; its symbol is legal as every response's is. -/
theorem oneHostEventPerKeyCommand : Obligations.OneHostEventPerKeyCommand := by
  intro s s' p ps cmd hwf hc hcmd hstep
  rw [step_of_cmd hwf hc hcmd] at hstep
  have hhost : s'.hostStream = s.hostStream ++ ((cmd.toInstr s.config).response { s with cmds := ps }).fwd.toList :=
    exec_hostStream (s := { s with cmds := ps }) hstep
  cases cmd with
  | seed v => exact hhost.trans (List.append_nil _)
  | next => exact hhost.trans (List.append_nil _)
  | key x a b =>
    have hi : (dispatchKey s.config x a b).wf s.config = true := wf_toInstr (fits_of_cmd hcmd)
    rw [Cmd.toInstr] at hhost
    show if classify s.config x = .toggle then _ else _
    split
    case isTrue hx =>
      rw [response_dispatchKey_toggle (s := { s with cmds := ps }) hx] at hhost
      exact hhost.trans (List.append_nil _)
    case isFalse hx =>
      obtain ⟨y, hfwd, hy⟩ := response_dispatchKey_fwd (s := { s with cmds := ps }) hwf hx a b
      rw [hfwd] at hhost
      exact ⟨y, hhost, response_fwd_lt (s := { s with cmds := ps }) hwf hi hfwd,
        response_fwd_ne_toggle (s := { s with cmds := ps }) hwf hi hfwd, hy⟩

/-! ### The reseed key and EN (R130) -/

/-- A reseed key event neither reads nor writes EN. -/
theorem reseedEvent_with_en (s : State) (d e : Bool) (a : Action) :
    State.reseedEvent d a { s with en := e } = { s.reseedEvent d a with en := e } := by
  unfold State.reseedEvent
  split <;> rfl

/-- Settles O40: both steps are the reseed event, one of them on the state with the other EN. -/
theorem reseedKeyIgnoresEn : Obligations.ReseedKeyIgnoresEn := by
  refine ⟨fun s p ps x a b e hwf hc hcmd hx => ?_, fun b s t h => by cases h; exact ⟨rfl, rfl⟩⟩
  have hstep := (step_of_cmd hwf hc hcmd).trans (exec_dispatchKey_reseed (s := { s with cmds := ps }) hx a b)
  have hstep' := (step_of_cmd (s := { s with en := e }) hwf hc hcmd).trans
    (exec_dispatchKey_reseed (s := { s with en := e, cmds := ps }) hx a b)
  exact ⟨_, _, hstep, hstep', State.reseedEvent_en .., reseedEvent_with_en (State.latchRest b { s with cmds := ps }) ..⟩

/-! ### The table of the whole core (R135) -/

/-- The command of a word, from its number (R72 to R74). -/
theorem decodeCmd_eq (w : CmdWord) : decodeCmd w =
    if w.toNat / 2 ^ 32 = 1 then some (.seed w.payload)
    else if w.toNat / 2 ^ 32 = 2 then (if w.toNat % 2 ^ 32 = 0 then some .next else none)
    else if w.toNat / 2 ^ 32 = 0 then
      (if w.toNat % 2 ^ 32 / 1024 = 0 then
        some (.key (w.toNat % 256) (actionOfBit (decide (w.toNat / 256 % 2 = 1))) (decide (w.toNat / 512 % 2 = 1)))
      else none)
    else none := by
  have hpay : w.payload = 0#32 ↔ w.toNat % 2 ^ 32 = 0 := by rw [← BitVec.toNat_inj, CmdWord.payload_toNat]; rfl
  have hres : w.reservedBits = 0#22 ↔ w.toNat % 2 ^ 32 / 1024 = 0 := by
    rw [← BitVec.toNat_inj, CmdWord.reservedBits_toNat, BitVec.toNat_ofNat]
    omega
  simp only [decodeCmd, CmdWord.op_eq_iff, hpay, hres, CmdWord.symbol_toNat, CmdWord.actionBit_eq, CmdWord.restBit_eq]
  rfl

/-- The row of a word is the row of the command it decodes to; a reserved word has none. -/
theorem stepTable_word (c : Config) (w : CmdWord) (s r : Nat) (e t : Bool) :
    stepTable c (.word w) s r e t = (decodeCmd w).bind fun cmd => stepTable c (.command cmd) s r e t := by
  rw [decodeCmd_eq, stepTable]
  split_ifs
  · rw [Option.bind_some, stepTable, CmdWord.payload_toNat]
  · rfl
  · rfl
  · simp only [Option.bind_some, stepTable, actionOfBit_eq_press, decide_eq_true_eq]
  · rfl
  · rfl

/-- A command with a symbol that is not of SYM_W bits has no row. -/
theorem stepTable_command_of_not_fits {c : Config} {cmd : Cmd} (hf : cmd.fits c = false) (s r : Nat) (e t : Bool) :
    stepTable c (.command cmd) s r e t = none := by
  cases cmd with
  | seed | next => cases hf
  | key x a b => exact if_pos (not_lt.mp (of_decide_eq_false hf))

/-- The table's row for an item is the row of the command the item is. -/
theorem stepTable_eq_bind_cmd (c : Config) (p : Presented) (s r : Nat) (e t : Bool) :
    stepTable c p s r e t = (p.cmd c).bind fun cmd => stepTable c (.command cmd) s r e t := by
  have hcommand (cmd : Cmd) : stepTable c (.command cmd) s r e t =
      ((Presented.command cmd).cmd c).bind fun cmd => stepTable c (.command cmd) s r e t := by
    cases hf : cmd.fits c with
    | true => rw [cmd_command.mpr ⟨rfl, hf⟩, Option.bind_some]
    | false => rw [Presented.cmd, Option.filter_some, hf, stepTable_command_of_not_fits hf]; rfl
  cases p with
  | command cmd => exact hcommand cmd
  | word w =>
    rw [stepTable_word]
    cases hd : decodeCmd w with
    | none => simp [Presented.cmd, hd]
    | some cmd =>
      have hsame : (Presented.word w).cmd c = (Presented.command cmd).cmd c := by simp [Presented.cmd, hd]
      rw [Option.bind_some, hcommand, hsame]

/-! The row of a key event, by the class of its symbol. -/

section
variable {c : Config} {x : Nat} (hlt : x < 2 ^ c.symW)
include hlt

theorem keyRow_toggle (hx : classify c x = .toggle) (press b : Bool) (s r : Nat) (e : Bool) :
    keyRow c x press b s r e = some ⟨s, r, if press then !e else e, b, true, none, none⟩ := by
  simp only [keyRow, if_neg (not_le.mpr hlt), if_pos (classify_eq_toggle.mp hx)]
  cases press <;> rfl

theorem keyRow_reseed (hx : classify c x = .reseed) (press b : Bool) (seed : SeedWord) (r : Nat) (e : Bool) :
    keyRow c x press b seed.toNat r e = some (if (press || c.reseedOnRelease) && b
      then ⟨advanced seed, drawn (advanced seed), e, b, false, some (c.kcReseed, press), some (drawn (advanced seed))⟩
      else ⟨seed.toNat, r, e, b, false, some (c.kcReseed, press), none⟩) := by
  obtain rfl := eq_of_classify_reseed hx
  have htoggle : c.kcReseed ≠ c.kcToggle := by
    rw [ne_eq, ← classify_eq_toggle, hx]
    exact KeyClass.noConfusion
  simp only [keyRow, if_neg (not_le.mpr hlt), if_neg htoggle, if_true, Bool.and_comm b]
  cases b <;> cases press || c.reseedOnRelease <;> rfl

theorem keyRow_alpha (h : c.WF) (hx : classify c x = .alpha) (press b : Bool) (s r : Nat) (e : Bool) :
    keyRow c x press b s r e = some ⟨s, r, e, b, e, some (substitute c e r (indexOf c x hx), press), none⟩ := by
  have htoggle : x ≠ c.kcToggle := by
    rw [ne_eq, ← classify_eq_toggle, hx]
    exact KeyClass.noConfusion
  have hreseed : x ≠ c.kcReseed := by
    rw [ne_eq, ← classify_eq_reseed h, hx]
    exact KeyClass.noConfusion
  simp only [keyRow, if_neg (not_le.mpr hlt), if_neg htoggle, if_neg hreseed, if_pos (alpha_bounds hx)]
  cases e with
  | true => rw [if_pos rfl, substitute, if_pos rfl, symbolOf_eq h]; rfl
  | false => rw [if_neg Bool.noConfusion, substitute, if_neg Bool.noConfusion, symbolOf_indexOf h]

theorem keyRow_other (hx : classify c x = .other) (press b : Bool) (s r : Nat) (e : Bool) :
    keyRow c x press b s r e = some ⟨s, r, e, b, false, some (x, press), none⟩ := by
  obtain ⟨htoggle, hreseed, hletter⟩ := classify_eq_other.mp hx
  simp only [keyRow, if_neg (not_le.mpr hlt), if_neg htoggle, if_neg hreseed, if_neg hletter]

end

/-- The meaning of a letter's key event. -/
theorem exec_dispatchKey_alpha {s : State} {x : Nat} (hx : classify s.config x = .alpha) (a : Action) (b : Bool) :
    exec (dispatchKey s.config x a b) s = .next ((s.latchRest b).letterEvent (indexOf s.config x hx) a) := by
  rw [dispatchKey_alpha hx]
  cases a <;> rfl

/-- What a reseed key event leaves is the table's row of it. -/
theorem rowOf_reseedEvent (e b : Bool) (a : Action) (s : State) :
    rowOf ((s.latchRest b).reseedEvent e a) (reseedRsp (e && b) a s) = if e && b
      then ⟨advanced s.seed, drawn (advanced s.seed), s.en, b, false, some (s.config.kcReseed, decide (a = .press)),
        some (drawn (advanced s.seed))⟩
      else ⟨s.seed.toNat, s.rot, s.en, b, false, some (s.config.kcReseed, decide (a = .press)), none⟩ := by
  rw [rowOf, reseedEvent_seed, (reseedEvent_rsp_rot e b a s).2, State.reseedEvent_en, State.reseedEvent_rest,
    State.draw_rot, reduce_lcgStep, reseedRsp, State.draw_rot, reduce_lcgStep]
  cases e && b with
  | true => simp [lcgStep_toNat_eq_advanced]
  | false => simp

/-- What a key event does is its row of the table. -/
theorem keyRow_eq_rowOf {s t : State} {x : Nat} {a : Action} {b : Bool} (hwf : s.config.WF)
    (hlt : x < 2 ^ s.config.symW) (h : exec (dispatchKey s.config x a b) s = .next t) :
    keyRow s.config x (decide (a = .press)) b s.seed.toNat s.rot s.en =
      some (rowOf t ((dispatchKey s.config x a b).response s)) := by
  cases hx : classify s.config x with
  | toggle =>
    rw [keyRow_toggle hlt hx, response_dispatchKey_toggle hx]
    rw [dispatchKey_toggle hx] at h
    cases a <;> cases h <;> rfl
  | reseed =>
    rw [keyRow_reseed hlt hx, response_dispatchKey_reseed hx]
    rw [exec_dispatchKey_reseed hx] at h
    cases h
    rw [rowOf_reseedEvent]
    rfl
  | alpha =>
    rw [keyRow_alpha hlt hwf hx, response_dispatchKey_alpha hx, letterRsp_eq_substitute]
    rw [exec_dispatchKey_alpha hx] at h
    cases h
    simp [rowOf]
  | other =>
    rw [keyRow_other hlt hx, response_dispatchKey_other hx]
    rw [dispatchKey_other hx] at h
    cases a <;> cases h <;> rfl

/-- What a command of the configuration does is its row of the table. -/
theorem stepTable_command_eq_rowOf {s t : State} {cmd : Cmd} (hwf : s.config.WF) (hf : cmd.fits s.config = true)
    (h : exec (cmd.toInstr s.config) s = .next t) :
    stepTable s.config (.command cmd) s.seed.toNat s.rot s.en s.rest =
      some (rowOf t ((cmd.toInstr s.config).response s)) := by
  cases cmd with
  | seed v => cases h; rfl
  | next =>
    cases h
    simp only [stepTable, nextRow, rowOf, Cmd.toInstr, Instr.response, State.respond_seed, State.respond_rot, State.draw_seed,
      State.draw_rot, lcgStep_toNat_eq_advanced, reduce_lcgStep]
    rfl
  | key x a b => exact keyRow_eq_rowOf hwf (key_fits_iff.mp hf) h

/-- Settles O36: an item that is a command has the row of what its instruction does; any other has none and is refused. -/
theorem stepIsTheWholeTable : Obligations.StepIsTheWholeTable := by
  intro s p ps hwf hc
  cases hcmd : p.cmd s.config with
  | none =>
    rw [stepTable_eq_bind_cmd, hcmd]
    exact (step_of_presented hwf hc).1.mpr (decode_eq_none.mpr hcmd)
  | some cmd =>
    obtain ⟨t, ht⟩ := exec_next (cmd.toInstr s.config) { s with cmds := ps }
    obtain ⟨hconfig, hcmds, -⟩ := exec_frame ht
    obtain ⟨hrsp, hrsps⟩ := exec_answers ht
    have hrow := stepTable_command_eq_rowOf (s := { s with cmds := ps }) hwf (fits_of_cmd hcmd) ht
    rw [stepTable_eq_bind_cmd, hcmd, Option.bind_some, hrow]
    exact ⟨t, _, (step_of_cmd hwf hc hcmd).trans ht, rfl, hrsp, hrsps, hcmds, hconfig⟩

end Sys2Proof
end

section
/-! PROOFS. A letter's press and release over a quiet stretch, and how a truthful observer keeps the stretch quiet
(41_cipher_engine.md R131, 70_reset_and_hazards.md R196 to R198). -/

namespace Sys2Proof

open Sys2Proof.Machine Sys2Proof.Claims

/-! ### Quiet items leave EN and ROT alone (R131) -/

theorem quiet_of_cmd {c : Config} {p : Presented} {cmd : Cmd} (h : p.cmd c = some cmd) :
    p.quiet c = (cmd.toInstr c).quiet c := by
  rw [Presented.quiet, decode_of_cmd h, Option.any_some]

/-- What a quiet item's step leaves as it was. -/
structure QuietChange (s t : State) (rest : List Presented) : Prop where
  config : t.config = s.config
  rot : t.rot = s.rot
  en : t.en = s.en
  cmds : t.cmds = rest

/-- A quiet instruction writes neither ROT nor EN. -/
theorem exec_quiet {i : Instr} {s t : State} (hq : i.quiet s.config = true) (h : exec i s = .next t) :
    QuietChange s t s.cmds := by
  obtain ⟨hdraws, hclass⟩ := Bool.and_eq_true_iff.mp hq
  obtain ⟨hconfig, hcmds, -⟩ := exec_frame h
  rw [Bool.not_eq_true'] at hdraws
  have hrot : t.rot = s.rot := by rw [(exec_rsp_rot h).2, hdraws]; rfl
  have hen : t.en = s.en := by rw [exec_en h, if_neg (bne_iff_ne.mp hclass)]
  exact ⟨hconfig, hrot, hen, hcmds⟩

/-- The step that accepts a quiet item. -/
theorem step_quiet {s : State} {p : Presented} {ps : List Presented} (hwf : s.config.WF) (hc : s.cmds = p :: ps)
    (hq : p.quiet s.config = true) : ∃ t, step s = .next t ∧ QuietChange s t ps := by
  obtain ⟨i, hd, hi⟩ := (Option.any_eq_true ..).mp hq
  obtain ⟨t, ht⟩ := exec_next i { s with cmds := ps }
  obtain ⟨hconfig, hrot, hen, hcmds⟩ := exec_quiet (s := { s with cmds := ps }) hi ht
  exact ⟨t, (step_of_decode hwf hc hd).trans ht, hconfig, hrot, hen, hcmds⟩

/-- The run over a quiet stretch, by induction on the stretch. -/
theorem run_quiet {mid tail : List Presented} {s : State} (hwf : s.config.WF) (hc : s.cmds = mid ++ tail)
    (hq : ∀ p ∈ mid, p.quiet s.config = true) : ∃ t, run mid.length s = .next t ∧ QuietChange s t tail := by
  induction mid generalizing s with
  | nil => exact ⟨s, run_zero s, rfl, rfl, rfl, hc⟩
  | cons p mid ih =>
    obtain ⟨hp, hmid⟩ := List.forall_mem_cons.mp hq
    obtain ⟨u, hstep, hconfig, hrot, hen, hcmds⟩ := step_quiet hwf hc hp
    rw [← hconfig] at hwf hmid
    obtain ⟨t, hrun, hconfig', hrot', hen', hcmds'⟩ := ih hwf hcmds hmid
    exact ⟨t, run_succ_next_iff.mpr ⟨u, hstep, hrun⟩, hconfig'.trans hconfig, hrot'.trans hrot, hen'.trans hen, hcmds'⟩

/-! ### The letter's own events -/

theorem cmd_letterCommand {c : Config} (h : c.WF) (letter : Letter) (a : Action) (b : Bool) :
    (letterCommand c letter a b).cmd c = some (.key (symbolOf c letter) a b) :=
  cmd_present (key_fits_iff.mpr (lt_of_classify_alpha h (classify_symbolOf h letter)))

/-- A key event is quiet unless it is a press of the toggle key or draws. -/
theorem quiet_dispatchKey (c : Config) (x : Nat) (a : Action) (b : Bool) : (dispatchKey c x a b).quiet c = true ↔
    ¬ (classify c x = .toggle ∧ a = .press) ∧ ¬ (classify c x = .reseed ∧ edgeDraws c a = true ∧ b = true) := by
  have htoggle : keyCommandClass (classify c x) a = .toggleP ↔ classify c x = .toggle ∧ a = .press :=
    keyCommandClass_inj (k' := .toggle) (a' := .press)
  rw [Instr.quiet, draws_dispatchKey, commandClass_dispatchKey, Bool.and_eq_true, Bool.not_eq_true', bne_iff_ne, ne_eq,
    htoggle, ← Bool.not_eq_true, Bool.and_eq_true, Bool.and_eq_true, beq_iff_eq, and_comm]

theorem quiet_letterCommand {c : Config} (h : c.WF) (letter : Letter) (a : Action) (b : Bool) :
    (letterCommand c letter a b).quiet c = true := by
  rw [quiet_of_cmd (cmd_letterCommand h letter a b), Cmd.toInstr, quiet_dispatchKey, classify_symbolOf h]
  simp

/-- The step that accepts a letter's key event forwards the letter's substitute and is quiet. The configuration, EN and ROT are
named apart from the state, for the press and the release to be given the same symbol. -/
theorem step_letterCommand {s : State} {ps : List Presented} {c : Config} {en : Bool} {rot : Nat} {letter : Letter}
    {a : Action} {b : Bool} (hwf : c.WF) (hconfig : s.config = c) (hen : s.en = en) (hrot : s.rot = rot)
    (hc : s.cmds = letterCommand c letter a b :: ps) :
    ∃ t, step s = .next t ∧ QuietChange s t ps ∧ t.rsp = some ⟨en, some ⟨substitute c en rot letter, a⟩, none⟩ := by
  obtain ⟨t, hstep, hrsp⟩ := step_letter_forwards_substitute hwf hconfig hen hrot hc (cmd_letterCommand hwf letter a b)
    (classify_symbolOf hwf letter)
  rw [indexOf_symbolOf hwf] at hrsp
  subst hconfig
  obtain ⟨t', hstep', hquiet⟩ := step_quiet hwf hc (quiet_letterCommand hwf letter a b)
  obtain rfl : t' = t := Host.Outcome.next.inj (hstep'.symm.trans hstep)
  exact ⟨t', hstep, hquiet, hrsp⟩

/-- A press, a quiet stretch and the release: EN and ROT are the same at both ends, so the substitute is. -/
theorem run_press_quiet_release {s : State} {letter : Letter} {b b' : Bool} {mid tail : List Presented}
    (hwf : s.config.WF)
    (hc : s.cmds = letterCommand s.config letter .press b :: (mid ++ letterCommand s.config letter .release b' :: tail))
    (hq : ∀ p ∈ mid, p.quiet s.config = true) :
    ∃ (s1 s2 : State) (q : Bool) (y : Nat), run 1 s = .next s1 ∧ run (mid.length + 2) s = .next s2 ∧
      s1.rsp = some ⟨q, some ⟨y, .press⟩, none⟩ ∧ s2.rsp = some ⟨q, some ⟨y, .release⟩, none⟩ ∧
      QuietChange s s2 tail := by
  obtain ⟨s1, hpress, ⟨hconfig1, hrot1, hen1, hcmds1⟩, hrsp1⟩ := step_letterCommand hwf rfl rfl rfl hc
  obtain ⟨u, hmid, hconfig, hrot, hen, hcmds⟩ := run_quiet (hconfig1 ▸ hwf) hcmds1 (hconfig1 ▸ hq)
  rw [hconfig1] at hconfig
  rw [hrot1] at hrot
  rw [hen1] at hen
  obtain ⟨s2, hrelease, ⟨hconfig2, hrot2, hen2, hcmds2⟩, hrsp2⟩ := step_letterCommand hwf hconfig hen hrot hcmds
  have hrun : run (mid.length + 2) s = .next s2 :=
    run_succ_next_iff.mpr ⟨s1, hpress, (run_succ_of_run_next hmid).trans hrelease⟩
  exact ⟨s1, s2, _, _, run_succ_next_iff.mpr ⟨s1, hpress, run_zero s1⟩, hrun, hrsp1, hrsp2,
    hconfig2.trans hconfig, hrot2.trans hrot, hen2.trans hen, hcmds2⟩

/-- Settles O45: the run of press, quiet stretch and release. -/
theorem quietStretchKeepsTheLetter : Obligations.QuietStretchKeepsTheLetter := by
  intro s letter b b' mid tail hwf hc hq
  obtain ⟨s1, s2, q, y, hrun1, hrun2, hrsp1, hrsp2, hchange⟩ := run_press_quiet_release hwf hc hq
  exact ⟨s1, s2, q, y, hrun1, hrun2, hrsp1, hrsp2, hchange.cmds⟩

/-! ### A truthful observer (R196 to R198) -/

/-- With another key held, a truthful rest bit is 0. -/
theorem rest_of_truthful {held : List Nat} {x y : Nat} {a : Action} {b : Bool} (ht : truthfulCmd held (.key x a b) = true)
    (hy : y ∈ held) (hne : y ≠ x) : b = false := by
  rw [beq_iff_eq.mp ht, List.all_eq_false]
  exact ⟨y, hy, by simpa using hne⟩

/-- While a letter is held, a truthful command that does not disturb it is quiet: a reseed key event finds the letter's key
down, so its rest bit is 0. -/
theorem quiet_of_truthful {c : Config} {held : List Nat} {y : Nat} {cmd : Cmd} (hletter : classify c y = .alpha)
    (hy : y ∈ held) (ht : truthfulCmd held cmd = true) (hd : disturbs c y cmd = false) :
    (cmd.toInstr c).quiet c = true := by
  cases cmd with
  | seed v => rfl
  | next => cases hd
  | key x a b =>
    refine (quiet_dispatchKey c x a b).mpr ⟨?_, ?_⟩
    · rintro ⟨htoggle, rfl⟩
      simp [disturbs, htoggle] at hd
    · rintro ⟨hreseed, -, hb⟩
      have hne : y ≠ x := by
        rintro rfl
        cases hletter.symm.trans hreseed
      cases (rest_of_truthful ht hy hne).symm.trans hb

/-- A command that does not disturb a held key leaves it held. -/
theorem mem_heldAfter {c : Config} {held : List Nat} {y : Nat} {cmd : Cmd} (hy : y ∈ held)
    (hd : disturbs c y cmd = false) : y ∈ heldAfter held cmd := by
  match cmd with
  | .seed _ | .next => exact hy
  | .key x .press _ =>
    rw [heldAfter]
    split
    · exact hy
    · exact List.mem_cons_of_mem x hy
  | .key x .release _ =>
    have hne : x ≠ y := by simpa [disturbs] using hd
    exact List.mem_filter.mpr ⟨hy, bne_iff_ne.mpr hne.symm⟩

/-- A truthful stream of one item more. -/
theorem truthful_cons {c : Config} {held : List Nat} {p : Presented} {ps : List Presented}
    (h : truthful c held (p :: ps) = true) : ∃ cmd, p.cmd c = some cmd ∧ truthfulCmd held cmd = true ∧
      truthful c (heldAfter held cmd) ps = true := by
  rw [truthful] at h
  split at h
  · cases h
  · exact ⟨_, ‹_›, Bool.and_eq_true_iff.mp h⟩

/-- A truthful stretch that does not disturb a held letter is quiet, by induction on the stretch. -/
theorem quiet_of_truthful_undisturbed {c : Config} {y : Nat} (hletter : classify c y = .alpha) {held : List Nat}
    {mid : List Presented} (hy : y ∈ held) (ht : truthful c held mid = true) (hu : undisturbed c y mid = true) :
    ∀ p ∈ mid, p.quiet c = true := by
  induction mid generalizing held with
  | nil => exact fun p hp => absurd hp List.not_mem_nil
  | cons p mid ih =>
    obtain ⟨cmd, hcmd, htp, htmid⟩ := truthful_cons ht
    rw [undisturbed, List.all_cons, hcmd, Option.any_some, Bool.and_eq_true, Bool.not_eq_true'] at hu
    obtain ⟨hup, humid⟩ := hu
    have hp : p.quiet c = true := (quiet_of_cmd hcmd).trans (quiet_of_truthful hletter hy htp hup)
    exact List.forall_mem_cons.mpr ⟨hp, ih (mem_heldAfter hy hup) htmid humid⟩

/-- After its press a key is held. -/
theorem mem_heldAfter_press (held : List Nat) (x : Nat) (b : Bool) : x ∈ heldAfter held (.key x .press b) := by
  rw [heldAfter]
  split
  · assumption
  · exact List.mem_cons_self

/-- Settles O46: the press makes the letter held, so the truthful stretch is quiet. -/
theorem truthfulObserverKeepsTheLetter : Obligations.TruthfulObserverKeepsTheLetter := by
  intro s letter b b' held mid tail hwf hc ht hu
  obtain ⟨cmd, hcmd, -, htmid⟩ := truthful_cons ht
  obtain rfl := Option.some.inj (hcmd.symm.trans (cmd_letterCommand hwf letter .press b))
  have hquiet := quiet_of_truthful_undisturbed (classify_symbolOf hwf letter) (mem_heldAfter_press held _ b) htmid hu
  obtain ⟨s1, s2, q, y, hrun1, hrun2, hrsp1, hrsp2, hchange⟩ := run_press_quiet_release hwf hc hquiet
  exact ⟨s1, s2, q, y, hrun1, hrun2, hrsp1, hrsp2, hquiet, hchange.rot, hchange.en, hchange.cmds⟩

end Sys2Proof
end

section
/-! PROOFS. Script lines and their expansions (30_encoding.md R84, R85). -/

namespace Sys2Proof

open Sys2Proof.Machine

/-- Settles O60: the four example lines and the raw tap by reading them; every pseudo-command by its expansion. -/
theorem scriptLinesExpand : Obligations.ScriptLinesExpand := by
  refine ⟨by decide, by decide, by decide, by decide, by decide, fun _ _ => rfl, fun _ _ => rfl,
    fun _ => ⟨rfl, rfl, rfl⟩, fun _ => rfl⟩

end Sys2Proof
end
